-- ==== Sys2Proof/Word.lean ====
section
/-! DEFINITION. Word.lean: the words and the fixed sets of names of the block.
Widths follow R21, R80 and R93 of the spec; the codes of the names are in Decode.lean. -/

namespace Sys2Proof

/-- One character of a command field, an 8-bit code (R81). -/
abbrev Symbol := BitVec 8

/-- A finite string of symbols, position 0 first (R10, R26); its length is any natural number (R99). -/
abbrev SymString := List Symbol

/-- A duration in microseconds, below `2 ^ DUR_W` with `DUR_W = 32` (R9, R27). -/
abbrev Duration := BitVec 32

/-- A 36-bit sink command word (R93). -/
abbrev SinkWord := BitVec 36

/-- A 4-bit sequencer state code (R95). -/
abbrev SeqCode := BitVec 4

/-- A line level the block drives (R85). -/
inductive Level where
  | low
  | high
deriving DecidableEq, Repr, Inhabited

/-- What the physical line shows, a state of the PulseSink (R37). -/
inductive Line where
  | low
  | high
  | undriven
deriving DecidableEq, Repr, Inhabited

/-- The direction of the pin, a state of the PulseSink (R37). -/
inductive Dir where
  | unconfigured
  | output
  | released
deriving DecidableEq, Repr, Inhabited

/-- The PulseSink's answer to one operation (R205). -/
inductive Answer where
  | ok
  | fail
deriving DecidableEq, Repr, Inhabited

/-- The four command fields (R97, R121). -/
inductive Field where
  | sender
  | group
  | onOff
  | recipient
deriving DecidableEq, Repr, Inhabited

/-- The values of `ERR` (R31, R96). -/
inductive ErrCode where
  | none
  | rejected
  | defect
  | sinkFail
deriving DecidableEq, Repr, Inhabited

/-- The sixteen sequencer states (R95). -/
inductive SeqState where
  | idle
  | validating
  | rejected
  | encoding
  | acquire
  | preSilence
  | agc1
  | agc2
  | bitHigh
  | bitLow
  | close
  | silence
  | abort
  | cleanupLow
  | cleanupRelease
  | done
deriving DecidableEq, Repr, Inhabited

end Sys2Proof
end

