-- ==== Sys2Proof/Config.lean ====
section
/-! DEFINITION. Config.lean: the parameters the spec leaves OPEN (R7) and the free values.
Every `opaque` constant here has no body: nothing can be proved about its value, so a claim that
mentions one holds whatever it is. -/

namespace Sys2Proof

/-- A TimingProfile: six durations and the pre-session-silence flag (R27). -/
structure TimingProfile where
  tAgc1  : Duration
  tAgc2  : Duration
  tSil   : Duration
  tHigh  : Duration
  tLow0  : Duration
  tLow1  : Duration
  preSil : Bool
deriving DecidableEq, Repr, Inhabited

/-- The identity of the one pin of a block (R7, D9); no rule looks inside it. -/
structure Pin where
  id : Nat
deriving DecidableEq, Repr, Inhabited

/-- The per-block configuration (R7, R40): fixed for a block, written by no step. -/
structure Params where
  nRepeat         : Nat
  pin             : Pin
  releaseOnReject : Bool
deriving DecidableEq, Repr

/-- `N_REPEAT - 1`. OPEN (D8, N5): the spec gives no number, only `N_REPEAT >= 1`. -/
opaque Config.nRepeatPred : Nat

/-- `N_REPEAT`, at least 1 (R7). -/
def Config.nRepeat : Nat := Config.nRepeatPred + 1

/-- `PIN`. OPEN (D9, N6). -/
opaque Config.pin : Pin

/-- `RELEASE_ON_REJECT`; `false` is the spec's own choice (R7, D5, conflict C2). -/
def Config.releaseOnReject : Bool := false

/-- The configuration of the block this model describes. A claim that should hold for every
configuration quantifies over the state's own copy of these parameters. -/
def Config.params : Params where
  nRepeat := Config.nRepeat
  pin := Config.pin
  releaseOnReject := Config.releaseOnReject

/-- The preset `REV_A`. OPEN (D7, N2): no number of it is in the spec. -/
opaque Config.revA : TimingProfile

/-- The six durations of the preset `REV_B`. OPEN (D7); its own flag is not read, see `Config.revB`. -/
opaque Config.revBDurations : TimingProfile

/-- The preset `REV_B`: exactly one of the two presets has the pre-session silence (R28, I13). -/
def Config.revB : TimingProfile :=
  { Config.revBDurations with preSil := !Config.revA.preSil }

/-- Free value: what the line shows after draw `n`, where the spec says "any value" (I5, I6, I12). -/
opaque Config.freeLine : Nat → Line

/-- Free value: the direction a `CONFIGURE` answered `fail` leaves (R201 against R202 and I6). -/
opaque Config.freeDir : Nat → Dir

/-- Free value: the wire bit of a symbol that has no `bitval` (R90, "defined only when `valid(c)`"). -/
opaque Config.freeWireBit : Nat → Bool

/-- Free value: `DIR` at power-on (R41, "unspecified at power-on"). -/
opaque Config.powerOnDir : Dir

/-- Free value: `LINE` at power-on (R41, I7). -/
opaque Config.powerOnLine : Line

end Sys2Proof
end

