-- ==== Sys2Proof/Syntax.lean ====
section
/-! DEFINITION. Syntax.lean: the decodable items of the block, one constructor for each row of
spec/opcode_table.json (R103): four sink operations, three symbol classes, sixteen sequencer states. -/

namespace Sys2Proof

/-- What an agent of the block can decode and run (R103). -/
inductive Instr where
  -- format sink36: the operations of the PulseSink (R201 to R204)
  | configure
  | setLevel (l : Level)
  | holdFor (d : Duration)
  | release
  -- format symbol8: the classes of a symbol (R82, R143)
  | symZero
  | symOne
  | symInvalid (c : Symbol)
  -- format seq_state4: the steps of the sequencer (R95)
  | idle
  | validating
  | rejected
  | encoding
  | acquire
  | preSilence
  | agc1
  | agc2
  | bitHigh
  | bitLow
  | close
  | silence
  | abort
  | cleanupLow
  | cleanupRelease
  | done
deriving DecidableEq, Repr

end Sys2Proof
end

