-- ==== Sys2Proof/WellFormed.lean ====
section
/-! DEFINITION. WellFormed.lean: which terms of `Instr` stand for an encoding.
Every operand of a sink operation fits its field by its type (R93), so the one check is that an
invalid symbol is not one of the two valid codes (R82, R103). -/

namespace Sys2Proof

/-- The term stands for an encoding of the opcode table. -/
def Instr.wellFormed : Instr → Bool
  | .symInvalid c => c != 0x30#8 && c != 0x31#8
  | .configure | .setLevel _ | .holdFor _ | .release => true
  | .symZero | .symOne => true
  | .idle | .validating | .rejected | .encoding | .acquire | .preSilence | .agc1 | .agc2 => true
  | .bitHigh | .bitLow | .close | .silence | .abort | .cleanupLow | .cleanupRelease | .done => true

end Sys2Proof
end

