-- ==== Sys2Proof/Decode.lean ====
section
/-! DEFINITION. Decode.lean: codes, decoders and encoders of the three formats of R103.
A sink word that R94 calls illegal is rejected by the name of what is wrong with it; every symbol code
and every state code decodes (R95, R98). -/

namespace Sys2Proof

/-! ### Codes of the names -/

/-- `LOW = 0`, `HIGH = 1` (R85). -/
def Level.code : Level → BitVec 1
  | .low => 0b0#1
  | .high => 0b1#1

/-- The level whose code is a given bit (R85). -/
def Level.ofBit : Bool → Level
  | false => .low
  | true => .high

/-- The level as the line shows it (R202, `LINE <- l`). -/
def Level.toLine : Level → Line
  | .low => .low
  | .high => .high

/-- `ERR` codes (R96). -/
def ErrCode.code : ErrCode → BitVec 2
  | .none => 0#2
  | .rejected => 1#2
  | .defect => 2#2
  | .sinkFail => 3#2

/-- `ERR_FIELD` codes (R97). -/
def Field.code : Field → BitVec 2
  | .sender => 0#2
  | .group => 1#2
  | .onOff => 2#2
  | .recipient => 3#2

/-- `SEQ_STATE` codes (R95). -/
def SeqState.code : SeqState → SeqCode
  | .idle => 0#4
  | .validating => 1#4
  | .rejected => 2#4
  | .encoding => 3#4
  | .acquire => 4#4
  | .preSilence => 5#4
  | .agc1 => 6#4
  | .agc2 => 7#4
  | .bitHigh => 8#4
  | .bitLow => 9#4
  | .close => 10#4
  | .silence => 11#4
  | .abort => 12#4
  | .cleanupLow => 13#4
  | .cleanupRelease => 14#4
  | .done => 15#4

/-- The state whose code is given; all sixteen codes are used (R95). -/
def SeqState.ofCode (c : SeqCode) : SeqState :=
  match c.toNat with
  | 0 => .idle
  | 1 => .validating
  | 2 => .rejected
  | 3 => .encoding
  | 4 => .acquire
  | 5 => .preSilence
  | 6 => .agc1
  | 7 => .agc2
  | 8 => .bitHigh
  | 9 => .bitLow
  | 10 => .close
  | 11 => .silence
  | 12 => .abort
  | 13 => .cleanupLow
  | 14 => .cleanupRelease
  | _ => .done

/-! ### Decoders -/

/-- Why a sink word is illegal (R94). -/
inductive DecodeError where
  /-- bit 33 is 1 -/
  | reservedBitSet
  /-- `LEVEL` is 1 in an operation that has no level -/
  | levelNotUsed
  /-- `DUR` is not 0 in an operation that has no duration -/
  | durationNotUsed
deriving DecidableEq, Repr

/-- Field `OP`, bits 35:34 (R93). -/
def sinkOp (w : SinkWord) : BitVec 2 := w.extractLsb' 34 2

/-- The reserved bit 33 (R93). -/
def sinkReserved (w : SinkWord) : Bool := w.getLsbD 33

/-- Field `LEVEL`, bit 32 (R93). -/
def sinkLevel (w : SinkWord) : Bool := w.getLsbD 32

/-- Field `DUR`, bits 31:0 (R93). -/
def sinkDur (w : SinkWord) : Duration := w.extractLsb' 0 32

/-- An operation that uses neither `LEVEL` nor `DUR` (R94). -/
def withNoOperand (w : SinkWord) (i : Instr) : Except DecodeError Instr :=
  if sinkLevel w then .error .levelNotUsed
  else if sinkDur w ≠ 0 then .error .durationNotUsed
  else .ok i

/-- Decode a sink command word: the reserved bit, then `OP`, then the fields `OP` does not use (R93, R94). -/
def decodeSink36 (w : SinkWord) : Except DecodeError Instr :=
  if sinkReserved w then .error .reservedBitSet
  else if sinkOp w = 0b00#2 then withNoOperand w .configure
  else if sinkOp w = 0b01#2 then
    if sinkDur w ≠ 0 then .error .durationNotUsed else .ok (.setLevel (Level.ofBit (sinkLevel w)))
  else if sinkOp w = 0b10#2 then
    if sinkLevel w then .error .levelNotUsed else .ok (.holdFor (sinkDur w))
  else withNoOperand w .release

/-- Decode a symbol: `SYM_ZERO` and `SYM_ONE` are tried before `SYM_INVALID` (R82, R103). -/
def decodeSymbol8 (c : Symbol) : Instr :=
  if c = 0x30#8 then .symZero
  else if c = 0x31#8 then .symOne
  else .symInvalid c

/-- The step of a sequencer state (R95). -/
def SeqState.instr : SeqState → Instr
  | .idle => .idle
  | .validating => .validating
  | .rejected => .rejected
  | .encoding => .encoding
  | .acquire => .acquire
  | .preSilence => .preSilence
  | .agc1 => .agc1
  | .agc2 => .agc2
  | .bitHigh => .bitHigh
  | .bitLow => .bitLow
  | .close => .close
  | .silence => .silence
  | .abort => .abort
  | .cleanupLow => .cleanupLow
  | .cleanupRelease => .cleanupRelease
  | .done => .done

/-- Decode a state code; none is reserved (R95, R98). -/
def decodeSeqState4 (c : SeqCode) : Instr := (SeqState.ofCode c).instr

/-- A word together with the format it is read in (R103): the three formats are separate spaces. -/
inductive Encoded where
  | sink36 (w : SinkWord)
  | symbol8 (c : Symbol)
  | seqState4 (c : SeqCode)
deriving DecidableEq, Repr

/-- The decoder: total, and it rejects an illegal sink word by name. -/
def decode : Encoded → Except DecodeError Instr
  | .sink36 w => decodeSink36 w
  | .symbol8 c => .ok (decodeSymbol8 c)
  | .seqState4 c => .ok (decodeSeqState4 c)

/-! ### Encoders -/

/-- The four fields of R93 laid out in one word: `OP`, reserved 0, `LEVEL`, `DUR`. -/
def sinkWord (op : BitVec 2) (level : BitVec 1) (dur : Duration) : SinkWord :=
  op ++ 0b0#1 ++ level ++ dur

/-- `CONFIGURE(PIN)` (R93). -/
def configureWord : SinkWord := sinkWord 0b00#2 0b0#1 0#32

/-- `SET_LEVEL(PIN, l)` (R93). -/
def setLevelWord (l : Level) : SinkWord := sinkWord 0b01#2 l.code 0#32

/-- `HOLD_FOR(d)` (R93). -/
def holdForWord (d : Duration) : SinkWord := sinkWord 0b10#2 0b0#1 d

/-- `RELEASE(PIN)` (R93). -/
def releaseWord : SinkWord := sinkWord 0b11#2 0b0#1 0#32

/-- The word of a well-formed instruction, in its format. -/
def encode : Instr → Encoded
  | .configure => .sink36 configureWord
  | .setLevel l => .sink36 (setLevelWord l)
  | .holdFor d => .sink36 (holdForWord d)
  | .release => .sink36 releaseWord
  | .symZero => .symbol8 0x30#8
  | .symOne => .symbol8 0x31#8
  | .symInvalid c => .symbol8 c
  | .idle => .seqState4 SeqState.idle.code
  | .validating => .seqState4 SeqState.validating.code
  | .rejected => .seqState4 SeqState.rejected.code
  | .encoding => .seqState4 SeqState.encoding.code
  | .acquire => .seqState4 SeqState.acquire.code
  | .preSilence => .seqState4 SeqState.preSilence.code
  | .agc1 => .seqState4 SeqState.agc1.code
  | .agc2 => .seqState4 SeqState.agc2.code
  | .bitHigh => .seqState4 SeqState.bitHigh.code
  | .bitLow => .seqState4 SeqState.bitLow.code
  | .close => .seqState4 SeqState.close.code
  | .silence => .seqState4 SeqState.silence.code
  | .abort => .seqState4 SeqState.abort.code
  | .cleanupLow => .seqState4 SeqState.cleanupLow.code
  | .cleanupRelease => .seqState4 SeqState.cleanupRelease.code
  | .done => .seqState4 SeqState.done.code

/-! ### The opcode table (R103) -/

/-- The number a word of a format is compared with in the opcode table. -/
def Encoded.value : Encoded → Nat
  | .sink36 w => w.toNat
  | .symbol8 c => c.toNat
  | .seqState4 c => c.toNat

/-- One row of the opcode table: the word's bits under `mask` are `pattern`. -/
structure OpcodeRow where
  mask    : Nat
  pattern : Nat
deriving DecidableEq, Repr

/-- The row of the opcode table that an instruction belongs to (R103). -/
def opcodeRow : Instr → OpcodeRow
  | .configure => ⟨0xFFFFFFFFF, 0x000000000⟩
  | .setLevel _ => ⟨0xEFFFFFFFF, 0x400000000⟩
  | .holdFor _ => ⟨0xF00000000, 0x800000000⟩
  | .release => ⟨0xFFFFFFFFF, 0xC00000000⟩
  | .symZero => ⟨0xFF, 0x30⟩
  | .symOne => ⟨0xFF, 0x31⟩
  | .symInvalid _ => ⟨0x00, 0x00⟩
  | .idle => ⟨0xF, 0x0⟩
  | .validating => ⟨0xF, 0x1⟩
  | .rejected => ⟨0xF, 0x2⟩
  | .encoding => ⟨0xF, 0x3⟩
  | .acquire => ⟨0xF, 0x4⟩
  | .preSilence => ⟨0xF, 0x5⟩
  | .agc1 => ⟨0xF, 0x6⟩
  | .agc2 => ⟨0xF, 0x7⟩
  | .bitHigh => ⟨0xF, 0x8⟩
  | .bitLow => ⟨0xF, 0x9⟩
  | .close => ⟨0xF, 0xA⟩
  | .silence => ⟨0xF, 0xB⟩
  | .abort => ⟨0xF, 0xC⟩
  | .cleanupLow => ⟨0xF, 0xD⟩
  | .cleanupRelease => ⟨0xF, 0xE⟩
  | .done => ⟨0xF, 0xF⟩

/-- The format and word that a table row's bits stand for. A 4-bit state code is padded to a whole
byte; a byte below `0x10` is therefore read as a state code, any other byte as a symbol, and a longer
word as a sink word. DESIGN CHOICE, log entry 12: the table does not tell the two 8-bit forms apart. -/
def tableWord (nbits w : Nat) : Option Encoded :=
  if nbits ≤ 8 ∧ w < 16 then some (.seqState4 (BitVec.ofNat 4 w))
  else if 4 < nbits ∧ nbits ≤ 8 ∧ w < 256 then some (.symbol8 (BitVec.ofNat 8 w))
  else if 8 < nbits ∧ nbits ≤ 40 ∧ w < 0x1000000000 then some (.sink36 (BitVec.ofNat 36 w))
  else none

/-- The instruction the decoder reads from a table word; none where it refuses. -/
def decodeTableWord (nbits w : Nat) : Option Instr :=
  match tableWord nbits w with
  | none => none
  | some e =>
    match decode e with
    | .ok i => some i
    | .error _ => none

end Sys2Proof
end

