-- ==== Sys2Proof/Machine/State.lean ====
section
/-! DEFINITION. Machine/State.lean: the state of the three agents (R6, R21, R37), the reasons a step
stops, and the state after reset (R41). -/

namespace Sys2Proof.Machine

/-- A transmission request (R83). -/
structure Request where
  sender    : SymString
  group     : SymString
  onOff     : SymString
  recipient : SymString
  profile   : TimingProfile
deriving DecidableEq, Repr

/-- A status register or flag the host may read (R31, R32, R236). -/
inductive HostReg where
  | ready
  | busy
  | done
  | code
  | errField
  | errLen
  | errPos
  | errSym
  | errOp
deriving DecidableEq, Repr

/-- One move of the environment at the block's ports (R236). -/
inductive EnvMove where
  /-- the host sends nothing, and the block or the PulseSink moves -/
  | wait
  /-- the host presents a request (R170, R171) -/
  | request (r : Request)
  /-- the host reads a status register or a flag (R31, R32) -/
  | read (r : HostReg)
  /-- an agent other than the block touches the pin and leaves it so (R208, R236); the premise
  `Exclusive` of R252 excludes it while the block uses the pin -/
  | touchPin (d : Dir) (l : Line)
  /-- reset is asserted (R250). `inFlight` is the PulseSink's decision about an operation it was
  still performing (R251): `none`, it does not complete it; `some a`, it does, with outcome `a`. -/
  | reset (inFlight : Option Answer)
deriving DecidableEq, Repr

/-- The three error events (R220). -/
inductive ErrEvent where
  | validationError (f : Field) (len : Nat)
  | protocolDefect (pos : Nat) (c : Symbol)
  | sinkFailure (op : SinkWord)
deriving DecidableEq, Repr

/-- Why the machine stops with a fault. -/
inductive Fault where
  /-- Raised by the `BIT_HIGH` and `BIT_LOW` steps when `CMD` has no symbol at `BIT` (R143: "`BIT < 32`
  always holds here"). Safe: no run from reset reaches it, and the spec gives such a read no value. -/
  | noSuchSymbol (position : Nat)
  /-- Raised by a host read of an error detail register outside its validity condition (R31: "a model
  faults on such a read"), or of `CODE` or a detail register before `DONE = 1` (R32, R34, R236: the host
  gets "nothing until `DONE = 1`"). Safe: the model stops where the host gets no value. -/
  | statusNotValid (r : HostReg)
deriving DecidableEq, Repr

/-- Why the machine refuses to give a meaning. -/
inductive Refusal where
  /-- Raised by `exec` for an instruction that has no meaning yet. Safe. -/
  | notModelled (mnemonic : String)
  /-- Raised by the step when the head of `OUTQ` is an illegal word (R94: "a model of the PulseSink
  refuses an illegal word rather than giving it a meaning"). Safe: the block never emits one. -/
  | illegalSinkWord (w : SinkWord) (why : DecodeError)
deriving DecidableEq, Repr

/-- The state of the model. -/
structure State where
  -- registers of the block (R21)
  seqState : SeqState
  rep      : Nat
  bit      : Nat
  half     : Bool
  sender   : SymString
  group    : SymString
  onOff    : SymString
  recip    : SymString
  profile  : TimingProfile
  cmd      : SymString
  err      : ErrCode
  errField : Field
  errLen   : Nat
  errPos   : BitVec 5
  errSym   : Symbol
  errOp    : SinkWord
  owned    : Bool
  outq     : List SinkWord
  trace    : List (SinkWord × Answer)
  -- the PulseSink (R37)
  dir      : Dir
  line     : Line
  -- configuration, written by no step (R7, R40)
  cfg      : Params
  -- the model's own fields: the moves the environment will make, the answers the PulseSink will
  -- give, oldest first, and the number of free values drawn so far
  inputs   : List EnvMove
  answers  : List Answer
  draws    : Nat
deriving DecidableEq, Repr

/-- The registers of the block after reset (R41). A register with no value in R41 holds the value
zero, DESIGN CHOICE (log entry 1). `DIR`, `LINE` and the configuration are the power-on ones. -/
def State.reset : State where
  seqState := .idle
  rep := 0
  bit := 0
  half := false
  sender := []
  group := []
  onOff := []
  recip := []
  profile :=
    { tAgc1 := 0, tAgc2 := 0, tSil := 0, tHigh := 0, tLow0 := 0, tLow1 := 0, preSil := false }
  cmd := List.replicate 32 0x00#8
  err := .none
  errField := .sender
  errLen := 0
  errPos := 0
  errSym := 0
  errOp := 0
  owned := false
  outq := []
  trace := []
  dir := Config.powerOnDir
  line := Config.powerOnLine
  cfg := Config.params
  inputs := []
  answers := []
  draws := 0

end Sys2Proof.Machine
end

