-- ==== Sys2Proof/Machine/Ops.lean ====
section
/-! DEFINITION. Machine/Ops.lean: the primitives of R12, and raising an error event (R221 to R227),
which is the one exception entry of the block. There is no return from an error (R228). The block has
no memory (R60), so there is no memory operation. -/

namespace Sys2Proof

/-- The states whose position a sink failure leaves alone (R227). -/
def SeqState.staysOnFailure : SeqState → Bool
  | .cleanupRelease | .done | .rejected => true
  | _ => false

namespace Machine

/-- `state <- S` (R12). -/
def State.goTo (s : State) (q : SeqState) : State := { s with seqState := q }

/-- `emit(op)`: append to the tail of `OUTQ` (R12, R35). -/
def State.emit (s : State) (w : SinkWord) : State := { s with outq := s.outq ++ [w] }

/-- `Pulse(level, d)`: `SET_LEVEL` and then `HOLD_FOR` (R12, R87). -/
def State.pulse (s : State) (l : Level) (d : Duration) : State :=
  (s.emit (setLevelWord l)).emit (holdForWord d)

/-- What an error event writes to the status registers: only while `ERR` is `NONE` (R221 to R224). -/
def State.record (s : State) (e : ErrEvent) : State :=
  if s.err = .none then
    match e with
    | .validationError f n => { s with err := .rejected, errField := f, errLen := n }
    | .protocolDefect p c => { s with err := .defect, errPos := BitVec.ofNat 5 p, errSym := c }
    | .sinkFailure w => { s with err := .sinkFail, errOp := w }
  else s

/-- Where an error event sends the sequencer (R120, R143, R227); a sink failure also flushes `OUTQ`. -/
def State.divert (s : State) (e : ErrEvent) : State :=
  match e with
  | .validationError _ _ => s.goTo .rejected
  | .protocolDefect _ _ => s.goTo .abort
  | .sinkFailure _ =>
    { s with
      outq := []
      seqState := if s.seqState.staysOnFailure then s.seqState else .cleanupLow }

/-- Raise an error event: record it, then divert the sequencer (R221, R222, R223, R227). -/
def State.raise (s : State) (e : ErrEvent) : State := (s.record e).divert e

/-- One more free value has been drawn. -/
def State.drawn (s : State) : State := { s with draws := s.draws + 1 }

/-- `LINE <- any value`: a free value (R201, R202, I5, I6, I12). -/
def State.lineAny (s : State) : State := { s with line := Config.freeLine s.draws }.drawn

/-- The PulseSink has answered `a` to the operation `w` at the head of `OUTQ` (R206). -/
def State.complete (s : State) (w : SinkWord) (a : Answer) : State :=
  { s with trace := s.trace ++ [(w, a)], outq := s.outq.tail }

/-- The PulseSink step of R206 for an operation with word `w` and effect `perform`. The answer is the
next one of the PulseSink's; while it owes one, the block waits (R263, I15). -/
def sinkStep (w : SinkWord) (perform : Answer → State → State) (s : State) :
    Host.Outcome State Fault Refusal :=
  match s.answers with
  | [] => .next s
  | .ok :: rest => .next ((perform .ok { s with answers := rest }).complete w .ok)
  | .fail :: rest =>
    .next (((perform .fail { s with answers := rest }).complete w .fail).raise (.sinkFailure w))

end Machine

end Sys2Proof
end

