-- ==== Sys2Proof/Machine/Operands.lean ====
section
/-! DEFINITION. Machine/Operands.lean: the operands of the steps: classification of symbols (R82),
the wire bit and its LOW hold (R88 to R90), the fields and their expected lengths (R121). -/

namespace Sys2Proof

/-- `lowdur(w)`: the LOW hold of a wire bit (R88, R90). -/
def TimingProfile.lowdur (p : TimingProfile) (w : Bool) : Duration :=
  if w then p.tLow1 else p.tLow0

namespace Machine

/-- `isZero(c)` (R82). -/
def isZero (c : Symbol) : Bool := c == 0x30#8

/-- `isOne(c)` (R82). -/
def isOne (c : Symbol) : Bool := c == 0x31#8

/-- `valid(c)` (R82). -/
def validSymbol (c : Symbol) : Bool := isZero c || isOne c

/-- `bitval(c)`, undefined for an invalid symbol (R82). -/
def bitval (c : Symbol) : Option Bool :=
  if isZero c then some false else if isOne c then some true else none

/-- `wire(c, h) = bitval(c) XOR h`, defined only when `valid(c)` (R90). -/
def wire (c : Symbol) (h : Bool) : Option Bool := (bitval c).map (· ^^ h)

/-- The expected length of a field (R121). -/
def expectedLength : Field → Nat
  | .sender => 26
  | .group => 1
  | .onOff => 1
  | .recipient => 4

/-- The latched string of a field (R26). -/
def State.field (s : State) : Field → SymString
  | .sender => s.sender
  | .group => s.group
  | .onOff => s.onOff
  | .recipient => s.recip

/-- The check order (R122). -/
def checkOrder : List Field := [.sender, .group, .onOff, .recipient]

/-- A field's length, when it is not the expected one (R120). -/
def State.wrongLength (s : State) (f : Field) : Option (Field × Nat) :=
  if (s.field f).length = expectedLength f then none else some (f, (s.field f).length)

/-- The first field of wrong length in check order, with its length (R120, R122). -/
def State.firstWrongField (s : State) : Option (Field × Nat) :=
  checkOrder.findSome? s.wrongLength

/-- The LogicalCommand of the latched fields (R84, R125). -/
def State.concatenation (s : State) : SymString := s.sender ++ s.group ++ s.onOff ++ s.recip

/-- `CMD[BIT]`, if `CMD` has that position. -/
def State.currentSymbol (s : State) : Option Symbol := s.cmd[s.bit]?

end Machine

end Sys2Proof
end

