-- ==== Sys2Proof/Machine/Flags.lean ====
section
/-! DEFINITION. Machine/Flags.lean: the derived flags (R32), the status the host reads (R31, R179) and
the observable line level (R207). -/

namespace Sys2Proof

/-- The two terminal states (R177, R178). -/
def SeqState.terminal : SeqState → Bool
  | .rejected | .done => true
  | _ => false

namespace Machine

/-- `READY` (R32). -/
def State.ready (s : State) : Bool := s.seqState == .idle

/-- `DONE` (R32). -/
def State.doneFlag (s : State) : Bool := s.seqState.terminal && s.outq.isEmpty

/-- `BUSY` (R32). -/
def State.busy (s : State) : Bool := !s.ready && !s.doneFlag

/-- An internal step of the sequencer is enabled (R36). -/
def State.stepEnabled (s : State) : Bool :=
  s.outq.isEmpty && !(s.seqState == .idle) && !(s.seqState.terminal)

/-- When the host gets a value: a flag at any time (R32), `CODE` and the detail registers once `DONE = 1`
(R32, R34, R236), a detail register moreover only under its `ERR` value (R31). -/
def State.statusValid (s : State) : HostReg → Bool
  | .ready | .busy | .done => true
  | .code => s.doneFlag
  | .errField | .errLen => s.doneFlag && s.err == .rejected
  | .errPos | .errSym => s.doneFlag && s.err == .defect
  | .errOp => s.doneFlag && s.err == .sinkFail

/-- The number a status register or a flag holds (R31, R32, R96, R97). -/
def State.statusValue (s : State) : HostReg → Nat
  | .ready => s.ready.toNat
  | .busy => s.busy.toNat
  | .done => s.doneFlag.toNat
  | .code => s.err.code.toNat
  | .errField => s.errField.code.toNat
  | .errLen => s.errLen
  | .errPos => s.errPos.toNat
  | .errSym => s.errSym.toNat
  | .errOp => s.errOp.toNat

/-- What the host gets from a status register: its value where it is valid, else a fault (R31, I10). -/
def State.hostRead (s : State) (r : HostReg) : Except Fault Nat :=
  if s.statusValid r then .ok (s.statusValue r) else .error (.statusNotValid r)

/-- The level driven by the operations of a trace, scanned from the first (R207): the last `SET_LEVEL`
answered `ok`, unspecified when there is none since `CONFIGURE` or when a later operation failed. -/
def driveLevel (before : Option Level) : SinkWord × Answer → Option Level
  | (_, .fail) => none
  | (w, .ok) =>
    match decodeSink36 w with
    | .ok (.setLevel l) => some l
    | .ok (.holdFor _) => before
    | _ => none

/-- The observable line level, where R207 specifies one. -/
def State.observableLevel (s : State) : Option Level :=
  if s.dir = .output then s.trace.foldl driveLevel none else none

end Machine

end Sys2Proof
end

