-- ==== Sys2Proof/Machine/Session.lean ====
section
/-! DEFINITION. Machine/Session.lean: the steps around the frames: `IDLE` with the request transaction
(R170), `VALIDATING` and `ENCODING` (R120, R125), `ACQUIRE`, `PRE_SILENCE`, the cleanup pair and the
terminal states (R172 to R178). -/

namespace Sys2Proof.Machine

/-- The request transaction: one atomic write (R170). -/
def State.latch (s : State) (r : Request) : State :=
  { s with
    sender := r.sender
    group := r.group
    onOff := r.onOff
    recip := r.recipient
    profile := r.profile
    err := .none }.goTo .validating

/-- `IDLE`: latch a request that stands at the port, else wait (R170). -/
def execIdle (s : State) : Host.Outcome State Fault Refusal :=
  match s.inputs with
  | .request r :: rest => .next ({ s with inputs := rest }.latch r)
  | _ => .next s

/-- A rejection emits `RELEASE(PIN)` when `RELEASE_ON_REJECT` (R120, R123). -/
def State.releaseIfConfigured (s : State) : State :=
  if s.cfg.releaseOnReject then s.emit releaseWord else s

/-- `VALIDATING` (R120). -/
def execValidating (s : State) : Host.Outcome State Fault Refusal :=
  match s.firstWrongField with
  | some (f, n) => .next (s.raise (.validationError f n)).releaseIfConfigured
  | none => .next (s.goTo .encoding)

/-- `REJECTED`: no internal step (R178). -/
def execRejected (s : State) : Host.Outcome State Fault Refusal := .next s

/-- `ENCODING` (R125). -/
def execEncoding (s : State) : Host.Outcome State Fault Refusal :=
  .next ({ s with cmd := s.concatenation }.goTo .acquire)

/-- `ACQUIRE` (R172). -/
def execAcquire (s : State) : Host.Outcome State Fault Refusal :=
  .next ({ s.emit configureWord with owned := true, rep := 0 }.goTo
    (if s.profile.preSil then .preSilence else .agc1))

/-- `PRE_SILENCE` (R173). -/
def execPreSilence (s : State) : Host.Outcome State Fault Refusal :=
  .next ((s.pulse .low s.profile.tSil).goTo .agc1)

/-- `CLEANUP_LOW` (R175). -/
def execCleanupLow (s : State) : Host.Outcome State Fault Refusal :=
  .next ((s.emit (setLevelWord .low)).goTo .cleanupRelease)

/-- `CLEANUP_RELEASE` (R176). -/
def execCleanupRelease (s : State) : Host.Outcome State Fault Refusal :=
  .next ({ s.emit releaseWord with owned := false }.goTo .done)

/-- `DONE`: no internal step (R177). -/
def execDone (s : State) : Host.Outcome State Fault Refusal := .next s

end Sys2Proof.Machine
end

