-- ==== Sys2Proof/Machine/SinkOps.lean ====
section
/-! DEFINITION. Machine/SinkOps.lean: the four PulseSink operations (R201 to R204) and their meanings.
A meaning is one PulseSink step (R206). -/

namespace Sys2Proof.Machine

/-- Effect of `CONFIGURE` (R201). The spec says `DIR <- output` and also that the pin of a failed
`CONFIGURE` is not an output (R202, R204, I6), so a failed one leaves a free `DIR` (log entry 5). -/
def performConfigure (a : Answer) (s : State) : State :=
  { s with
    dir := match a with
      | .ok => .output
      | .fail => Config.freeDir s.draws }.lineAny

/-- Effect of `SET_LEVEL` (R202): any line value after a failed one (I12) or when the pin is no output (I6). -/
def performSetLevel (l : Level) (a : Answer) (s : State) : State :=
  if a = .ok ∧ s.dir = .output then { s with line := l.toLine } else s.lineAny

/-- Effect of `HOLD_FOR` (R203): `LINE` unchanged; the time it takes is not modelled (R254). -/
def performHoldFor (_d : Duration) (_a : Answer) (s : State) : State := s

/-- Effect of `RELEASE` (R204): any line value when the pin was no output (I6). R204 calls the effect there
unspecified; that `DIR` is `released` there too is the model's choice (log entry 26). -/
def performRelease (_a : Answer) (s : State) : State :=
  if s.dir = .output then { s with dir := .released, line := .undriven }
  else { s with dir := .released }.lineAny

/-- `CONFIGURE` (R201, R206). -/
def execConfigure (s : State) : Host.Outcome State Fault Refusal :=
  sinkStep configureWord performConfigure s

/-- `SET_LEVEL` (R202, R206). -/
def execSetLevel (l : Level) (s : State) : Host.Outcome State Fault Refusal :=
  sinkStep (setLevelWord l) (performSetLevel l) s

/-- `HOLD_FOR` (R203, R206). -/
def execHoldFor (d : Duration) (s : State) : Host.Outcome State Fault Refusal :=
  sinkStep (holdForWord d) (performHoldFor d) s

/-- `RELEASE` (R204, R206). -/
def execRelease (s : State) : Host.Outcome State Fault Refusal :=
  sinkStep releaseWord performRelease s

end Sys2Proof.Machine
end

