-- ==== Sys2Proof/Machine/Transmit.lean ====
section
/-! DEFINITION. Machine/Transmit.lean: the steps of a frame (R141 to R148), and the part each class of
symbol plays in the bit loop (R82, R90, R143, R144). -/

namespace Sys2Proof.Machine

/-- `AGC1` (R141). -/
def execAgc1 (s : State) : Host.Outcome State Fault Refusal :=
  .next ((s.pulse .high s.profile.tAgc1).goTo .agc2)

/-- `AGC2` (R142). -/
def execAgc2 (s : State) : Host.Outcome State Fault Refusal :=
  .next ({ s.pulse .low s.profile.tAgc2 with bit := 0, half := false }.goTo .bitHigh)

/-- The `BIT_HIGH` step with `c` as the symbol at `BIT` (R143). -/
def bitHighOn (c : Symbol) (s : State) : State :=
  if s.half = false ∧ validSymbol c = false then s.raise (.protocolDefect s.bit c)
  else (s.pulse .high s.profile.tHigh).goTo .bitLow

/-- The LOW hold of wire bit `w` (R88, R144). -/
def emitLowHold (w : Bool) (s : State) : State := s.pulse .low (s.profile.lowdur w)

/-- The LOW hold of the wire bit of `c`; an invalid symbol has no wire bit (R90), so a free one is
drawn (log entry 6). -/
def lowHoldOf (c : Symbol) (s : State) : State :=
  match wire c s.half with
  | some w => emitLowHold w s
  | none => (emitLowHold (Config.freeWireBit s.draws) s).drawn

/-- The next wire bit after `BIT_LOW` (R144). -/
def advanceBit (s : State) : State :=
  if s.half = false then { s with half := true }.goTo .bitHigh
  else
    { s with half := false, bit := s.bit + 1 }.goTo (if s.bit + 1 = 32 then .close else .bitHigh)

/-- The `BIT_LOW` step with `c` as the symbol at `BIT` (R144). -/
def bitLowOn (c : Symbol) (s : State) : State := advanceBit (lowHoldOf c s)

/-- `BIT_HIGH` (R143). -/
def execBitHigh (s : State) : Host.Outcome State Fault Refusal :=
  match s.currentSymbol with
  | some c => .next (bitHighOn c s)
  | none => .fault (.noSuchSymbol s.bit)

/-- `BIT_LOW` (R144). -/
def execBitLow (s : State) : Host.Outcome State Fault Refusal :=
  match s.currentSymbol with
  | some c => .next (bitLowOn c s)
  | none => .fault (.noSuchSymbol s.bit)

/-- A symbol taken by the block in its present state: the two bit-loop steps read it; in every other
state its content is not examined and has no effect (R124, R127, R145). -/
def symbolStep (c : Symbol) (s : State) : State :=
  if s.seqState = .bitHigh then bitHighOn c s
  else if s.seqState = .bitLow then bitLowOn c s
  else s

/-- `SYM_ZERO`: the symbol `0`, wire bits [0,1] (R82, R89). -/
def execSymZero (s : State) : Host.Outcome State Fault Refusal := .next (symbolStep 0x30#8 s)

/-- `SYM_ONE`: the symbol `1`, wire bits [1,0] (R82, R89). -/
def execSymOne (s : State) : Host.Outcome State Fault Refusal := .next (symbolStep 0x31#8 s)

/-- `SYM_INVALID`: any other symbol, a `ProtocolDefect` when the bit loop reaches it (R82, R143). -/
def execSymInvalid (c : Symbol) (s : State) : Host.Outcome State Fault Refusal :=
  .next (symbolStep c s)

/-- `CLOSE` (R146). -/
def execClose (s : State) : Host.Outcome State Fault Refusal :=
  .next ((s.pulse .high s.profile.tHigh).goTo .silence)

/-- `SILENCE`: the frame's last pulse and the repetition decision (R147). -/
def execSilence (s : State) : Host.Outcome State Fault Refusal :=
  .next ({ s.pulse .low s.profile.tSil with rep := s.rep + 1 }.goTo
    (if s.rep + 1 < s.cfg.nRepeat then .agc1 else .cleanupLow))

/-- `ABORT` (R148). -/
def execAbort (s : State) : Host.Outcome State Fault Refusal :=
  .next ((s.emit (setLevelWord .low)).goTo .cleanupLow)

end Sys2Proof.Machine
end

