-- ==== Sys2Proof/Machine/Dispatch.lean ====
section
/-! DEFINITION. Machine/Dispatch.lean: one arm per constructor of Instr. -/

namespace Sys2Proof.Machine

def exec (i : Instr) (s : State) : Host.Outcome State Fault Refusal :=
  match i with
  -- PulseSink operations
  | .configure => Sys2Proof.Machine.execConfigure s
  | .setLevel l => Sys2Proof.Machine.execSetLevel l s
  | .holdFor d => Sys2Proof.Machine.execHoldFor d s
  | .release => Sys2Proof.Machine.execRelease s
  -- symbol classes
  | .symZero => Sys2Proof.Machine.execSymZero s
  | .symOne => Sys2Proof.Machine.execSymOne s
  | .symInvalid c => Sys2Proof.Machine.execSymInvalid c s
  -- sequencer states
  | .idle => Sys2Proof.Machine.execIdle s
  | .validating => Sys2Proof.Machine.execValidating s
  | .rejected => Sys2Proof.Machine.execRejected s
  | .encoding => Sys2Proof.Machine.execEncoding s
  | .acquire => Sys2Proof.Machine.execAcquire s
  | .preSilence => Sys2Proof.Machine.execPreSilence s
  | .agc1 => Sys2Proof.Machine.execAgc1 s
  | .agc2 => Sys2Proof.Machine.execAgc2 s
  | .bitHigh => Sys2Proof.Machine.execBitHigh s
  | .bitLow => Sys2Proof.Machine.execBitLow s
  | .close => Sys2Proof.Machine.execClose s
  | .silence => Sys2Proof.Machine.execSilence s
  | .abort => Sys2Proof.Machine.execAbort s
  | .cleanupLow => Sys2Proof.Machine.execCleanupLow s
  | .cleanupRelease => Sys2Proof.Machine.execCleanupRelease s
  | .done => Sys2Proof.Machine.execDone s

end Sys2Proof.Machine
end

