-- ==== Sys2Proof/Machine/Schedule.lean ====
section
/-! DEFINITION. Machine/Schedule.lean: which agent moves next (R6, R36, R68, R206), reset (R250, R251),
and placing a table word where the machine fetches its next instruction. -/

namespace Sys2Proof.Machine

/-- What moves next when the environment sends nothing: the PulseSink on the head of `OUTQ` while it is
not empty (R206), else the sequencer on `SEQ_STATE` (R36). -/
def State.fetch (s : State) : Except Refusal Instr :=
  match s.outq with
  | w :: _ =>
    match decodeSink36 w with
    | .ok i => .ok i
    | .error e => .error (.illegalSinkWord w e)
  | [] => .ok (decodeSeqState4 s.seqState.code)

/-- The move of the PulseSink or of the sequencer; an illegal sink word is refused (R94, I8). -/
def blockMove (s : State) : Host.Outcome State Fault Refusal :=
  match s.fetch with
  | .ok i => exec i s
  | .error r => .refused r

/-- The effect on the line of a sink operation the PulseSink was still performing when reset came (R251). -/
def performInFlight (w : SinkWord) (a : Answer) (s : State) : State :=
  match decodeSink36 w with
  | .ok .configure => performConfigure a s
  | .ok (.setLevel l) => performSetLevel l a s
  | .ok (.holdFor d) => performHoldFor d a s
  | .ok .release => performRelease a s
  | _ => s

/-- The PulseSink's decision about the operation in flight, if there is one (R251). -/
def State.settleInFlight (s : State) (inFlight : Option Answer) : State :=
  match s.outq, inFlight with
  | w :: _, some a => performInFlight w a s
  | _, _ => s

/-- Reset: every register of the block at its value of R41; `DIR`, `LINE`, the configuration and the
environment's own moves stay (R41, R250, R251). -/
def State.applyReset (s : State) (inFlight : Option Answer) : State :=
  let s' := s.settleInFlight inFlight
  { State.reset with
    dir := s'.dir
    line := s'.line
    cfg := s'.cfg
    inputs := s'.inputs
    answers := s'.answers
    draws := s'.draws }

/-- Leave `rest` as the environment's remaining moves. -/
def afterMove (rest : List EnvMove) :
    Host.Outcome State Fault Refusal → Host.Outcome State Fault Refusal
  | .next s => .next { s with inputs := rest }
  | .fault f => .fault f
  | .refused r => .refused r

/-- One move: reset first, whenever it is asserted (R250); a request, taken by `IDLE` or not
transferred (R170, R171); a host read, with no effect on the block (R66); another agent's touch of the
pin (R208); else the block's own move. -/
def nextMove (s : State) : Host.Outcome State Fault Refusal :=
  match s.inputs with
  | .reset inFlight :: rest => .next (State.applyReset { s with inputs := rest } inFlight)
  | .request _ :: rest => if s.ready then exec .idle s else .next { s with inputs := rest }
  | .read r :: rest =>
    match s.hostRead r with
    | .ok _ => .next { s with inputs := rest }
    | .error f => .fault f
  | .touchPin d l :: rest => .next { s with inputs := rest, dir := d, line := l }
  | .wait :: rest => afterMove rest (blockMove s)
  | [] => blockMove s

/-- Put a word where the next step fetches: a sink word alone in `OUTQ`, with an answer of the
PulseSink if it owed one; a state code in `SEQ_STATE`, with `OUTQ` empty; a symbol at `CMD[BIT]`, in
`BIT_HIGH` with `HALF = 0`. -/
def State.placeWord (s : State) : Encoded → State
  | .sink36 w => { s with outq := [w], answers := if s.answers = [] then [.ok] else s.answers }
  | .seqState4 c => { s with outq := [], seqState := SeqState.ofCode c }
  | .symbol8 c =>
    let b := if s.bit < 32 then s.bit else 0
    { s with outq := [], seqState := .bitHigh, half := false, bit := b, cmd := s.cmd.set b c }

/-- The environment sends nothing in the next step. -/
def State.hostWaits (s : State) : State :=
  { s with inputs := if s.inputs = [] then [] else .wait :: s.inputs }

/-- `placeWord` for a word numbered as the opcode table numbers it. -/
def State.placeTableWord (s : State) (nbits w : Nat) : State :=
  match tableWord nbits w with
  | some e => (s.placeWord e).hostWaits
  | none => s

end Sys2Proof.Machine
end

