-- ==== Sys2Proof/Machine/Step.lean ====
section
/-! DEFINITION. Machine/Step.lean: the step function. -/

namespace Sys2Proof.Machine

/-- One step of the model: one atomic move of one agent (R6, R12, R206). -/
def step (s : State) : Host.Outcome State Fault Refusal := nextMove s

/-- The state with a table word placed where `step` fetches its next instruction. -/
def State.withFetchWord (s : State) (nbits w : Nat) : State := s.placeTableWord nbits w

end Sys2Proof.Machine
end

