-- ==== Sys2Proof/Machine/Stream.lean ====
section
/-! DEFINITION. Machine/Stream.lean: the streams the spec gives as functions: pulse events, wire bits,
frames (R87 to R91, R102), the session as a function (R92, R181), nominal durations (R256 to R259) and
the packed view of a command (R63). No step calls them: they are what the steps are compared with. -/

namespace Sys2Proof.Machine

/-! ### Pulse events and frames -/

/-- `PULSE l, d` (R87, R102). -/
def pulseOps (l : Level) (d : Duration) : List SinkWord := [setLevelWord l, holdForWord d]

/-- `WIRE w` (R88, R102). -/
def wireOps (p : TimingProfile) (w : Bool) : List SinkWord :=
  pulseOps .high p.tHigh ++ pulseOps .low (p.lowdur w)

/-- `LBIT b`: wire bits `b` and `1 - b` (R89, R102). -/
def lbitOps (p : TimingProfile) (b : Bool) : List SinkWord := wireOps p b ++ wireOps p (!b)

/-- `PREAMBLE` (R102). -/
def preambleOps (p : TimingProfile) : List SinkWord :=
  pulseOps .high p.tAgc1 ++ pulseOps .low p.tAgc2

/-- `TRAILER` (R102). -/
def trailerOps (p : TimingProfile) : List SinkWord :=
  pulseOps .high p.tHigh ++ pulseOps .low p.tSil

/-- `PRESIL` (R102, R173). -/
def presilOps (p : TimingProfile) : List SinkWord := pulseOps .low p.tSil

/-- `FRAME cmd` for the bits of a command (R102). -/
def frameOps (p : TimingProfile) (bits : List Bool) : List SinkWord :=
  preambleOps p ++ bits.flatMap (lbitOps p) ++ trailerOps p

/-- PulseEvent `e` of the frame of `bits`, as the index table of R91 gives it. -/
def frameEvent (p : TimingProfile) (bits : List Bool) (e : Nat) : Level × Duration :=
  if e = 0 then (.high, p.tAgc1)
  else if e = 1 then (.low, p.tAgc2)
  else if e = 130 then (.high, p.tHigh)
  else if e = 131 then (.low, p.tSil)
  else if e % 2 = 0 then (.high, p.tHigh)
  else (.low, p.lowdur (bits.getD ((e - 2) / 4) false ^^ ((e - 2) / 2 % 2 == 1)))

/-- The bits of a command whose symbols are all valid (R82). -/
def commandBits (cmd : SymString) : Option (List Bool) := cmd.mapM bitval

/-! ### The session as a function (R181) -/

/-- How a session ends (R179, R181). -/
inductive Status where
  | ok
  | rejected (f : Field) (len : Nat)
  | defect (pos : Nat) (c : Symbol)
  | sinkFail (op : SinkWord)
deriving DecidableEq, Repr

/-- The status a state reports: `ERR` with the detail that is valid under it (R31, R179). -/
def State.status (s : State) : Status :=
  match s.err with
  | .none => .ok
  | .rejected => .rejected s.errField s.errLen
  | .defect => .defect s.errPos.toNat s.errSym
  | .sinkFail => .sinkFail s.errOp

/-- A field of a request (R83). -/
def Request.field (r : Request) : Field → SymString
  | .sender => r.sender
  | .group => r.group
  | .onOff => r.onOff
  | .recipient => r.recipient

/-- The first field of wrong length in check order, with its length (R122, R181). -/
def Request.firstWrongField (r : Request) : Option (Field × Nat) :=
  checkOrder.findSome? fun f =>
    if (r.field f).length = expectedLength f then none else some (f, (r.field f).length)

/-- The LogicalCommand of a request (R84). -/
def Request.command (r : Request) : SymString := r.sender ++ r.group ++ r.onOff ++ r.recipient

/-- The bit loop over the symbols from position `pos` on: the operations sent, and the first invalid
symbol if one is met (R145, R181). -/
def bitLoopOps (p : TimingProfile) : Nat → SymString → List SinkWord × Option (Nat × Symbol)
  | _, [] => ([], none)
  | pos, c :: cs =>
    match bitval c with
    | none => ([], some (pos, c))
    | some b =>
      let rest := bitLoopOps p (pos + 1) cs
      (lbitOps p b ++ rest.1, rest.2)

/-- `n` repetitions and the end of the session (R181). -/
def repetitionOps (p : TimingProfile) (cmd : SymString) : Nat → List SinkWord × Status
  | 0 => ([setLevelWord .low, releaseWord], .ok)
  | n + 1 =>
    match bitLoopOps p 0 cmd with
    | (ops, some (k, c)) =>
      (preambleOps p ++ ops ++ [setLevelWord .low, setLevelWord .low, releaseWord], .defect k c)
    | (ops, none) =>
      let rest := repetitionOps p cmd n
      (preambleOps p ++ ops ++ trailerOps p ++ rest.1, rest.2)

/-- `session(req)`: the operations and the status of a session with every answer `ok` (R181). -/
def session (cfg : Params) (r : Request) : List SinkWord × Status :=
  match r.firstWrongField with
  | some (f, n) => (if cfg.releaseOnReject then [releaseWord] else [], .rejected f n)
  | none =>
    let rest := repetitionOps r.profile r.command cfg.nRepeat
    (configureWord :: ((if r.profile.preSil then presilOps r.profile else []) ++ rest.1), rest.2)

/-! ### Nominal durations -/

/-- The nominal length of one operation: the duration of a hold, else 0 (R256). -/
def nominalOf (w : SinkWord) : Nat :=
  match decodeSink36 w with
  | .ok (.holdFor d) => d.toNat
  | _ => 0

/-- The sum of the holds of a stream (R256). -/
def nominalSum (ops : List SinkWord) : Nat := (ops.map nominalOf).sum

/-- The nominal duration of a logical bit (R257). -/
def bitNominal (p : TimingProfile) : Nat := 2 * p.tHigh.toNat + p.tLow0.toNat + p.tLow1.toNat

/-- The nominal duration of a frame (R149, R258). -/
def frameNominal (p : TimingProfile) : Nat :=
  p.tAgc1.toNat + p.tAgc2.toNat + 65 * p.tHigh.toNat + 32 * (p.tLow0.toNat + p.tLow1.toNat) +
    p.tSil.toNat

/-- The nominal duration of a successful session (R259). -/
def sessionNominal (p : TimingProfile) (nRepeat : Nat) : Nat :=
  nRepeat * frameNominal p + (if p.preSil then p.tSil.toNat else 0)

/-! ### The packed view -/

/-- `W`: the bits of a command of 32 valid symbols, position 0 as the most significant bit (R63). -/
def packedCommand (cmd : SymString) : Option (BitVec 32) :=
  if cmd.length = 32 then
    (commandBits cmd).map fun bits => bits.foldl (fun w b => w.shiftConcat b) 0#32
  else none

end Sys2Proof.Machine
end

