-- ==== Sys2Proof/Machine/Assembly.lean ====
section
/-! DEFINITION. Machine/Assembly.lean: the assembly of sink operations (R100), the request syntax (R101)
and the pseudo-operations (R102). No step calls it. -/

namespace Sys2Proof.Machine

/-- The duration operand of `HOLD_FOR`: a number of microseconds or a PROFILE field name (R100). -/
inductive AsmDuration where
  | literal (d : Duration)
  | tAgc1
  | tAgc2
  | tSil
  | tHigh
  | tLow0
  | tLow1
deriving DecidableEq, Repr

/-- The duration an operand stands for under a profile. -/
def AsmDuration.value (p : TimingProfile) : AsmDuration → Duration
  | .literal d => d
  | .tAgc1 => p.tAgc1
  | .tAgc2 => p.tAgc2
  | .tSil => p.tSil
  | .tHigh => p.tHigh
  | .tLow0 => p.tLow0
  | .tLow1 => p.tLow1

/-- One line of assembly: an operation (R100) or a pseudo-operation (R102). -/
inductive AsmLine where
  | configure
  | setLevel (l : Level)
  | holdFor (d : AsmDuration)
  | release
  | pulse (l : Level) (d : AsmDuration)
  | wire (w : Bool)
  | lbit (b : Bool)
  | preamble
  | trailer
  | frame (bits : List Bool)
  | presil
deriving DecidableEq, Repr

/-- The sink words of a line of assembly (R100, R102). -/
def assemble (p : TimingProfile) : AsmLine → List SinkWord
  | .configure => [configureWord]
  | .setLevel l => [setLevelWord l]
  | .holdFor d => [holdForWord (d.value p)]
  | .release => [releaseWord]
  | .pulse l d => pulseOps l (d.value p)
  | .wire w => wireOps p w
  | .lbit b => lbitOps p b
  | .preamble => preambleOps p
  | .trailer => trailerOps p
  | .frame bits => frameOps p bits
  | .presil => presilOps p

/-- The line of assembly of a legal sink word (R100). -/
def disassemble (w : SinkWord) : Except DecodeError AsmLine :=
  match decodeSink36 w with
  | .ok .configure => .ok .configure
  | .ok (.setLevel l) => .ok (.setLevel l)
  | .ok (.holdFor d) => .ok (.holdFor (.literal d))
  | .ok _ => .ok .release
  | .error e => .error e

/-- The text of a level (R100). -/
def levelText : Level → String
  | .low => "LOW"
  | .high => "HIGH"

/-- The text of a duration operand (R100, R27). -/
def durationText : AsmDuration → String
  | .literal d => toString d.toNat
  | .tAgc1 => "T_AGC1"
  | .tAgc2 => "T_AGC2"
  | .tSil => "T_SIL"
  | .tHigh => "T_HIGH"
  | .tLow0 => "T_LOW0"
  | .tLow1 => "T_LOW1"

/-- The text of one operation of a trace with its answer (R100); none for a pseudo-operation. -/
def traceText (a : Answer) : AsmLine → Option String
  | .configure => some ("CONFIGURE" ++ answerText a)
  | .setLevel l => some ("SET_LEVEL " ++ levelText l ++ answerText a)
  | .holdFor d => some ("HOLD_FOR " ++ durationText d ++ answerText a)
  | .release => some ("RELEASE" ++ answerText a)
  | _ => none
where
  answerText : Answer → String
    | .ok => " ; ok"
    | .fail => " ; fail"

/-- The profile of a request: a preset by name or a value (R28, R101). -/
inductive ProfileChoice where
  | revA
  | revB
  | explicit (p : TimingProfile)
deriving DecidableEq, Repr

/-- The profile a choice stands for (R28, R101). -/
def ProfileChoice.profile : ProfileChoice → TimingProfile
  | .revA => Config.revA
  | .revB => Config.revB
  | .explicit p => p

/-- `TRANSMIT sender=…, group=…, on_off=…, recipient=…, profile=…` (R101). -/
structure TransmitLine where
  sender    : SymString
  group     : SymString
  onOff     : SymString
  recipient : SymString
  profile   : ProfileChoice
deriving DecidableEq, Repr

/-- The request a `TRANSMIT` line presents (R83, R101). -/
def TransmitLine.request (t : TransmitLine) : Request where
  sender := t.sender
  group := t.group
  onOff := t.onOff
  recipient := t.recipient
  profile := t.profile.profile

/-- The 8-bit code of a character of a quoted string (R81, R101). -/
def symbolOfChar (c : Char) : Symbol := BitVec.ofNat 8 c.toNat

/-- The symbols of a quoted string (R101). -/
def symbolsOf (text : String) : SymString := text.toList.map symbolOfChar

end Sys2Proof.Machine
end

