-- ==== Sys2Proof/Safety.lean ====
section
/-! DEFINITION. Safety.lean: the terms claims are stated in: the premises of R252, the invariant of a
session, the internal-step budget of R263, and the relation that says two states differ only in
registers that hold no value (R39). -/

namespace Sys2Proof

/-! ### Classes of sequencer states -/

/-- `ProfileWF`, a premise for claims about receivers only (R29). -/
def TimingProfile.wf (p : TimingProfile) : Prop := p.tLow0 < p.tLow1

/-- The states before the first sink operation of a session that passes validation. -/
def SeqState.beforePin : SeqState → Bool
  | .idle | .validating | .encoding | .acquire => true
  | _ => false

/-- The states in which no error has been recorded: the pre-silence and the frame (R143, R227). -/
def SeqState.sending : SeqState → Bool
  | .preSilence | .agc1 | .agc2 | .bitHigh | .bitLow | .close | .silence => true
  | _ => false

/-- The states from after `ACQUIRE` up to `CLEANUP_RELEASE`, in which `OWNED = 1` (R33). -/
def SeqState.holdsPin : SeqState → Bool
  | .preSilence | .agc1 | .agc2 | .bitHigh | .bitLow | .close | .silence => true
  | .abort | .cleanupLow | .cleanupRelease => true
  | _ => false

/-- The states reached only through a validation that succeeded (R120). -/
def SeqState.validated : SeqState → Bool
  | .idle | .validating | .rejected => false
  | _ => true

/-- The states reached only through `ENCODING` (R125). -/
def SeqState.encoded : SeqState → Bool
  | .idle | .validating | .rejected | .encoding => false
  | _ => true

/-- The edges of the transition table, less the reset edge. -/
def SeqState.successors : SeqState → List SeqState
  | .idle => [.validating]
  | .validating => [.encoding, .rejected]
  | .encoding => [.acquire]
  | .acquire => [.preSilence, .agc1]
  | .preSilence => [.agc1, .cleanupLow]
  | .agc1 => [.agc2, .cleanupLow]
  | .agc2 => [.bitHigh, .cleanupLow]
  | .bitHigh => [.abort, .bitLow, .cleanupLow]
  | .bitLow => [.bitHigh, .close, .cleanupLow]
  | .close => [.silence, .cleanupLow]
  | .silence => [.agc1, .cleanupLow]
  | .abort => [.cleanupLow]
  | .cleanupLow => [.cleanupRelease]
  | .cleanupRelease => [.done]
  | .done => []
  | .rejected => []

/-- States in which the fields and `PROFILE` have been written since reset. -/
def SeqState.latched : SeqState → Bool
  | .idle => false
  | _ => true

/-- States in which `REP` has been written since reset (R172). -/
def SeqState.repWritten : SeqState → Bool
  | .idle | .validating | .rejected | .encoding | .acquire => false
  | _ => true

/-- States in which `BIT` and `HALF` have been written for the present frame (R142). -/
def SeqState.bitWritten : SeqState → Bool
  | .bitHigh | .bitLow | .close | .silence | .abort => true
  | _ => false

namespace Machine

/-! ### Words as the spec writes them (R93) -/

/-- `HOLD_FOR(d) = 0x800000000 | d`. -/
def specHold (d : Duration) : SinkWord := 0x800000000#36 ||| d.setWidth 36

/-- `SET_LEVEL(PIN, HIGH)` and then `HOLD_FOR(d)`. -/
def specHigh (d : Duration) : List SinkWord := [0x500000000#36, specHold d]

/-- `SET_LEVEL(PIN, LOW)` and then `HOLD_FOR(d)`. -/
def specLow (d : Duration) : List SinkWord := [0x400000000#36, specHold d]

/-- A hold with its duration cleared; any other word as it is. -/
def eraseDuration (w : SinkWord) : SinkWord :=
  if w.extractLsb' 34 2 = 0b10#2 then 0x800000000#36 else w

/-- How many PulseEvents a stream holds: one for each `HOLD_FOR` (R86, R87). -/
def pulseEventCount (ops : List SinkWord) : Nat := ops.countP fun w => w.extractLsb' 34 2 == 0b10#2

/-- A word R94 does not call illegal. -/
def legalWord (w : SinkWord) : Bool :=
  match decodeSink36 w with
  | .ok _ => true
  | .error _ => false

/-! ### A completed sink operation, as R206, R223 and R227 say it -/

/-- What a `fail` answer to `w` does: the first error is recorded, the queue flushed, the sequencer sent
to `CLEANUP_LOW` unless it is in one of three states (R223, R224, R227). -/
def specFailure (s : State) (w : SinkWord) : State :=
  { s with
    err := if s.err = .none then .sinkFail else s.err
    errOp := if s.err = .none then w else s.errOp
    outq := []
    seqState :=
      if s.seqState = .cleanupRelease ∨ s.seqState = .done ∨ s.seqState = .rejected then s.seqState
      else .cleanupLow }

/-- The state after the PulseSink answered `a` to the operation `w`, with `DIR`, `LINE` and the count of
draws as given. -/
def specAnswered (s : State) (w : SinkWord) (a : Answer) (rest : List Answer) (d : Dir) (l : Line)
    (n : Nat) : State :=
  let t : State :=
    { s with
      answers := rest, dir := d, line := l, draws := n, trace := s.trace ++ [(w, a)],
      outq := s.outq.tail }
  match a with
  | .ok => t
  | .fail => specFailure t w

/-- The state after `VALIDATING` has found field `f` of wrong length `n` (R120). -/
def specRejected (s : State) (f : Field) (n : Nat) : State :=
  { s with
    err := .rejected
    errField := f
    errLen := n
    outq := s.outq ++ (if s.cfg.releaseOnReject then [0xC00000000#36] else [])
    seqState := .rejected }

/-! ### Premises (R252, R29) -/

/-- `ConfigFixed`: `N_REPEAT >= 1`. -/
def ConfigFixed (s : State) : Prop := 1 ≤ s.cfg.nRepeat

/-- `ResetDone`: the block is in `IDLE` after a reset. -/
def ResetDone (s : State) : Prop :=
  s.seqState = .idle ∧ s.err = .none ∧ s.owned = false ∧ s.outq = [] ∧ s.trace = [] ∧
    s.bit ≤ 32 ∧ s.rep ≤ s.cfg.nRepeat ∧ s.cmd.length = 32

/-- `SinkReliable`: every answer the PulseSink will give is `ok`. -/
def SinkReliable (s : State) : Prop := ∀ a ∈ s.answers, a = Answer.ok

/-- `ProfileChosen`: the request carries a preset or another TimingProfile, durations below `2 ^ 32`. Every
request meets it, by its type (`profileChosen`). -/
def ProfileChosen (r : Request) : Prop :=
  (∃ c : ProfileChoice, r.profile = c.profile) ∧
    ∀ d ∈ [r.profile.tAgc1, r.profile.tAgc2, r.profile.tSil, r.profile.tHigh, r.profile.tLow0,
      r.profile.tLow1], d.toNat < 2 ^ 32

/-- `SinkAnswers`: no operation of the run is left without an answer (R263). -/
def SinkAnswers (s : State) : Prop :=
  ∀ k t, Sys2Proof.core.run k s = .next t → t.outq ≠ [] → t.answers ≠ []

/-- The next move is a reset. -/
def resetNext (s : State) : Bool :=
  match s.inputs with
  | .reset _ :: _ => true
  | _ => false

/-- The next move is another agent's touch of the pin (R208). -/
def touchNext (s : State) : Bool :=
  match s.inputs with
  | .touchPin _ _ :: _ => true
  | _ => false

/-- The block uses the pin: from the emission of `CONFIGURE` until `RELEASE` has completed (R33, R208). -/
def State.usesPin (s : State) : Bool := s.owned || !s.outq.isEmpty

/-- `Exclusive`: nowhere in the run does another agent touch the pin while the block uses it (R208). -/
def Exclusive (s : State) : Prop :=
  ∀ k t, Sys2Proof.core.run k s = .next t → t.usesPin = true → touchNext t = false

/-- `NoResetMidSession`: nowhere in the run is reset asserted between a request and `DONE = 1` (R251). -/
def NoResetMidSession (s : State) : Prop :=
  ∀ k t, Sys2Proof.core.run k s = .next t → t.seqState ≠ .idle → t.doneFlag = false →
    resetNext t = false

/-- The next move is the request transaction (R170). -/
def requestNext (s : State) : Bool :=
  match s.inputs with
  | .request _ :: _ => s.ready
  | _ => false

/-! ### The invariant of a session -/

/-- The words issued so far: those completed, then those in `OUTQ`. -/
def State.issued (s : State) : List SinkWord := s.trace.map Prod.fst ++ s.outq

/-- The symbol at `BIT` is there and valid. -/
def State.symbolValid (s : State) : Prop := ∃ c, s.currentSymbol = some c ∧ validSymbol c = true

/-- The invariant that every step of the machine keeps. -/
structure Inv (s : State) : Prop where
  /-- `N_REPEAT >= 1` (R7) -/
  configFixed : ConfigFixed s
  /-- `len(OUTQ) <= 2` (R35) -/
  queueBound : s.outq.length ≤ 2
  /-- the block never emits an illegal word (R94) -/
  queueLegal : ∀ w ∈ s.outq, legalWord w = true
  /-- nothing is issued or recorded before `ACQUIRE` (R123, R127) -/
  quiet : s.seqState.beforePin = true → s.outq = [] ∧ s.trace = [] ∧ s.err = .none
  /-- `OWNED` (R33) -/
  owned : s.owned = s.seqState.holdsPin
  /-- field lengths 26, 1, 1, 4 after validation (R121) -/
  lengths : s.seqState.validated = true → s.firstWrongField = none
  /-- `CMD` is 32 symbols (R30) -/
  cmdLength : s.cmd.length = 32
  /-- `CMD` is the concatenation once encoded (R71, R126) -/
  cmdValue : s.seqState.encoded = true → s.cmd = s.concatenation
  /-- `BIT <= 32` (R24) -/
  bitBound : s.bit ≤ 32
  /-- `BIT < 32` in the bit loop (R143) -/
  bitLoop : s.seqState = .bitHigh ∨ s.seqState = .bitLow → s.bit < 32
  /-- the symbol was found valid before its first pulse (R143, R144) -/
  checked : s.seqState = .bitLow ∨ (s.seqState = .bitHigh ∧ s.half = true) → s.symbolValid
  /-- `REP <= N_REPEAT` (R23) -/
  repBound : s.rep ≤ s.cfg.nRepeat
  /-- a frame is one of the first `N_REPEAT` (R147) -/
  repLoop : s.seqState.sending = true → s.rep < s.cfg.nRepeat
  /-- every earlier error leaves the frame (R143) -/
  noError : s.seqState.sending = true → s.err = .none
  /-- `ERR = REJECTED` belongs to `REJECTED` (R178, R220) -/
  rejectedErr : s.seqState = .rejected ↔ s.err = .rejected
  /-- `ABORT` follows a defect and starts with an empty queue (R143, R148) -/
  abortErr : s.seqState = .abort → s.err = .defect ∧ s.outq = []
  /-- the first operation is `CONFIGURE` (R183 a) -/
  configureFirst : s.seqState.holdsPin = true ∨ s.seqState = .done →
    s.issued.head? = some 0x000000000#36
  /-- `CLEANUP_LOW` has issued its `SET_LEVEL(LOW)` (R175) -/
  lowIssued : s.seqState = .cleanupRelease →
    s.outq.length ≤ 1 ∧ ∃ before, s.issued = before ++ [0x400000000#36]
  /-- the last two operations are `SET_LEVEL(LOW)` and `RELEASE` (R183 b) -/
  releaseIssued : s.seqState = .done →
    s.outq.length ≤ 1 ∧ ∃ before, s.issued = before ++ [0x400000000#36, 0xC00000000#36]
  /-- a rejected session issues at most one `RELEASE` (R123) -/
  rejectedIssued : s.seqState = .rejected → s.issued = [] ∨ s.issued = [0xC00000000#36]

/-! ### The internal-step budget (R263) -/

/-- Internal steps of `n` frames and the cleanup pair. -/
def framesBudget (n : Nat) : Nat := 132 * n + 2

/-- At most how many internal steps remain before the end of the run. -/
def State.budget (s : State) : Nat :=
  let after := framesBudget (s.cfg.nRepeat - s.rep - 1)
  let fromAcquire := 1 + (if s.profile.preSil then 1 else 0) + framesBudget s.cfg.nRepeat
  match s.seqState with
  | .validating => fromAcquire + 2
  | .encoding => fromAcquire + 1
  | .acquire => fromAcquire
  | .preSilence => 1 + framesBudget (s.cfg.nRepeat - s.rep)
  | .agc1 => 132 + after
  | .agc2 => 131 + after
  | .bitHigh => (if s.half then 0 else 2) + 4 * (31 - s.bit) + 4 + after
  | .bitLow => (if s.half then 0 else 2) + 4 * (31 - s.bit) + 3 + after
  | .close => 2 + after
  | .silence => 1 + after
  | .abort => 3
  | .cleanupLow => 2
  | .cleanupRelease => 1
  | .idle | .done | .rejected => 0

/-! ### Registers that hold no value (R39) -/

/-- Two states that may differ only in registers that hold no value: not written since reset, or a
detail register outside its validity condition (R31, R39). -/
structure SameWritten (s t : State) : Prop where
  position : s.seqState = t.seqState
  latched : s.seqState.latched = true →
    s.sender = t.sender ∧ s.group = t.group ∧ s.onOff = t.onOff ∧ s.recip = t.recip ∧
      s.profile = t.profile
  cmd : s.seqState.encoded = true → s.cmd = t.cmd
  rep : s.seqState.repWritten = true → s.rep = t.rep
  bit : s.seqState.bitWritten = true → s.bit = t.bit ∧ s.half = t.half
  err : s.err = t.err
  rejectedDetail : s.err = .rejected → s.errField = t.errField ∧ s.errLen = t.errLen
  defectDetail : s.err = .defect → s.errPos = t.errPos ∧ s.errSym = t.errSym
  sinkDetail : s.err = .sinkFail → s.errOp = t.errOp
  owned : s.owned = t.owned
  outq : s.outq = t.outq
  trace : s.trace = t.trace
  dir : s.dir = t.dir
  line : s.line = t.line
  cfg : s.cfg = t.cfg
  inputs : s.inputs = t.inputs
  answers : s.answers = t.answers
  draws : s.draws = t.draws

/-- Two outcomes agree: both go on and the states agree in everything that holds a value, or both stop
for one reason. -/
def SameOutcome : Host.Outcome State Fault Refusal → Host.Outcome State Fault Refusal → Prop
  | .next s, .next t => SameWritten s t
  | .fault f, .fault g => f = g
  | .refused r, .refused q => r = q
  | _, _ => False

end Machine

end Sys2Proof
end

