-- ==== Sys2Proof/Certificates/Slice0/Obligations.lean ====
section
/-! DEFINITION. Certificates/Slice0/Obligations.lean: the statements for the provers. Sink words stand
here as the numbers of R93, not as the model's own constants. -/

open Sys2Proof Sys2Proof.Machine

/-! ### Encodings -/

/-- R93: the words of the four sink operations. -/
def Obligations.SinkWordsAreThoseOfTheSpec : Prop :=
  encode .configure = .sink36 0x000000000#36 ∧
  encode (.setLevel .low) = .sink36 0x400000000#36 ∧
  encode (.setLevel .high) = .sink36 0x500000000#36 ∧
  (∀ d, encode (.holdFor d) = .sink36 (0x800000000#36 ||| d.setWidth 36)) ∧
  encode .release = .sink36 0xC00000000#36

/-- Words written out from R93, R81 and R95 decode to the items they stand for. -/
def Obligations.SpecWordsDecode : Prop :=
  decode (.sink36 0b00_0_0_00000000000000000000000000000000#36) = .ok .configure ∧
  decode (.sink36 0b01_0_1_00000000000000000000000000000000#36) = .ok (.setLevel .high) ∧
  decode (.sink36 0b10_0_0_00000000000000000000000011111010#36) = .ok (.holdFor 250#32) ∧
  decode (.sink36 0b11_0_0_00000000000000000000000000000000#36) = .ok .release ∧
  decode (.symbol8 0b00110000#8) = .ok .symZero ∧
  decode (.symbol8 0b00110001#8) = .ok .symOne ∧
  decode (.symbol8 0b00110010#8) = .ok (.symInvalid 0x32#8) ∧
  decode (.seqState4 0b0110#4) = .ok .agc1 ∧
  decode (.seqState4 0b1001#4) = .ok .bitLow ∧
  decode (.seqState4 0b1110#4) = .ok .cleanupRelease

/-- Decoding an encoded well-formed instruction gives it back, in all three formats. -/
def Obligations.DecodeAfterEncode : Prop :=
  ∀ i : Instr, i.wellFormed = true → decode (encode i) = .ok i

/-- Every word that decodes is the encoding of the well-formed instruction it decodes to. -/
def Obligations.EncodeAfterDecode : Prop :=
  ∀ (e : Encoded) (i : Instr), decode e = .ok i → i.wellFormed = true ∧ encode i = e

/-- R94: which sink words are illegal; the PulseSink refuses one; an internal step emits none. -/
def Obligations.IllegalSinkWordsAreRefusedAndNeverEmitted : Prop :=
  (∀ w : SinkWord,
    (∃ e, decodeSink36 w = .error e) ↔
      w.getLsbD 33 = true ∨ (w.getLsbD 32 = true ∧ w.extractLsb' 34 2 ≠ 0b01#2) ∨
        (w.extractLsb' 0 32 ≠ 0#32 ∧ w.extractLsb' 34 2 ≠ 0b10#2)) ∧
  (∀ (s : State) (w : SinkWord) (q : List SinkWord) (e : DecodeError),
    s.inputs = [] → s.outq = w :: q → decodeSink36 w = .error e →
      step s = .refused (.illegalSinkWord w e)) ∧
  (∀ s t : State, s.inputs = [] → s.outq = [] → step s = .next t →
    ∀ w ∈ t.outq, ∃ i, decodeSink36 w = .ok i)

/-- R95: the sixteen codes, each used once, and the step each stands for. -/
def Obligations.SequencerCodes : Prop :=
  (SeqState.idle.code = 0 ∧ SeqState.validating.code = 1 ∧ SeqState.rejected.code = 2 ∧
    SeqState.encoding.code = 3 ∧ SeqState.acquire.code = 4 ∧ SeqState.preSilence.code = 5 ∧
    SeqState.agc1.code = 6 ∧ SeqState.agc2.code = 7 ∧ SeqState.bitHigh.code = 8 ∧
    SeqState.bitLow.code = 9 ∧ SeqState.close.code = 10 ∧ SeqState.silence.code = 11 ∧
    SeqState.abort.code = 12 ∧ SeqState.cleanupLow.code = 13 ∧ SeqState.cleanupRelease.code = 14 ∧
    SeqState.done.code = 15) ∧
  (∀ c : SeqCode, ∃ q : SeqState, q.code = c ∧ decode (.seqState4 c) = .ok q.instr)

/-- R96, R97: the codes of `ERR` and of the fields; a host that sees `DONE = 1` reads `NONE` as 0. -/
def Obligations.StatusCodes : Prop :=
  (ErrCode.none.code = 0 ∧ ErrCode.rejected.code = 1 ∧ ErrCode.defect.code = 2 ∧
    ErrCode.sinkFail.code = 3) ∧
  (Field.sender.code = 0 ∧ Field.group.code = 1 ∧ Field.onOff.code = 2 ∧
    Field.recipient.code = 3) ∧
  (∀ s : State, s.doneFlag = true → s.hostRead .code = .ok s.err.code.toNat)

/-- The classes of a symbol and the bit of a valid one (R82, R103). -/
def Obligations.SymbolClasses : Prop :=
  bitval 0x30#8 = some false ∧ bitval 0x31#8 = some true ∧
  decode (.symbol8 0x30#8) = .ok .symZero ∧ decode (.symbol8 0x31#8) = .ok .symOne ∧
  (∀ c : Symbol, c ≠ 0x30#8 → c ≠ 0x31#8 →
    validSymbol c = false ∧ bitval c = none ∧ decode (.symbol8 c) = .ok (.symInvalid c))

/-- R89: the wire bits and the pulse events of a logical bit; the two wire bits of a valid symbol are
complementary and the first is the bit. -/
def Obligations.ManchesterMapping : Prop :=
  (∀ p : TimingProfile,
    lbitOps p false = specHigh p.tHigh ++ specLow p.tLow0 ++ specHigh p.tHigh ++ specLow p.tLow1 ∧
    lbitOps p true = specHigh p.tHigh ++ specLow p.tLow1 ++ specHigh p.tHigh ++ specLow p.tLow0) ∧
  wire 0x30#8 false = some false ∧ wire 0x30#8 true = some true ∧
  wire 0x31#8 false = some true ∧ wire 0x31#8 true = some false

/-! ### Which instruction a step runs -/

/-- A step runs the instruction decoded from the head of `OUTQ`, or from `SEQ_STATE` when `OUTQ` is
empty; in the bit loop that is also the meaning of the symbol at `BIT`. A `wait` of the environment is
used up and changes nothing else. -/
def Obligations.StepRunsTheDecodedInstruction : Prop :=
  ∀ (s : State) (i : Instr),
    (∃ w q, s.outq = w :: q ∧ decode (.sink36 w) = .ok i) ∨
      (s.outq = [] ∧ decode (.seqState4 s.seqState.code) = .ok i) ∨
      (s.outq = [] ∧ (s.seqState = .bitHigh ∨ s.seqState = .bitLow) ∧
        ∃ c, s.cmd[s.bit]? = some c ∧ decode (.symbol8 c) = .ok i) →
    (s.inputs = [] → step s = exec i s) ∧
    (∀ rest, s.inputs = .wait :: rest →
      step s =
        match exec i s with
        | .next t => .next { t with inputs := rest }
        | .fault f => .fault f
        | .refused r => .refused r)

/-! ### The request -/

/-- R170: the request transaction, and waiting in `IDLE`. -/
def Obligations.RequestTransaction : Prop :=
  (∀ (s : State) (r : Request) (rest : List EnvMove),
    s.seqState = .idle → s.inputs = .request r :: rest →
      step s = exec .idle s ∧
      exec .idle s =
        .next { s with
          sender := r.sender, group := r.group, onOff := r.onOff, recip := r.recipient,
          profile := r.profile, err := .none, seqState := .validating, inputs := rest }) ∧
  (∀ s : State, s.seqState = .idle → s.ready = true) ∧
  (∀ s : State, s.inputs = [] → exec .idle s = .next s)

/-- R171: a request outside `IDLE` changes no state, and no request gets the block out of a terminal
state. -/
def Obligations.RequestOutsideIdle : Prop :=
  (∀ s : State, s.seqState ≠ .idle → s.ready = false) ∧
  (∀ (s : State) (r : Request) (rest : List EnvMove),
    s.seqState ≠ .idle → s.inputs = .request r :: rest →
      ∃ left, step s = .next { s with inputs := left }) ∧
  (∀ s t : State, s.seqState = .done ∨ s.seqState = .rejected → step s = .next t →
    (∃ f rest, s.inputs = .reset f :: rest) ∨ t.seqState = s.seqState)

/-! ### Validation and encoding -/

/-- R120, R121, R122: the first field of wrong length in the order sender, group, on_off, recipient is
reported with its length; `ERR` is `NONE` on entry. -/
def Obligations.ValidatingStep : Prop :=
  ∀ s : State, s.err = .none →
    (s.sender.length ≠ 26 →
      exec .validating s = .next (specRejected s .sender s.sender.length)) ∧
    (s.sender.length = 26 → s.group.length ≠ 1 →
      exec .validating s = .next (specRejected s .group s.group.length)) ∧
    (s.sender.length = 26 → s.group.length = 1 → s.onOff.length ≠ 1 →
      exec .validating s = .next (specRejected s .onOff s.onOff.length)) ∧
    (s.sender.length = 26 → s.group.length = 1 → s.onOff.length = 1 → s.recip.length ≠ 4 →
      exec .validating s = .next (specRejected s .recipient s.recip.length)) ∧
    (s.sender.length = 26 → s.group.length = 1 → s.onOff.length = 1 → s.recip.length = 4 →
      exec .validating s = .next { s with seqState := .encoding })

/-- R125, R126, R84: `CMD` is the concatenation; of validated fields it has 32 symbols and splits back. -/
def Obligations.EncodingStep : Prop :=
  ∀ s : State, ∃ c : SymString,
    exec .encoding s = .next { s with cmd := c, seqState := .acquire } ∧
    c = s.sender ++ s.group ++ s.onOff ++ s.recip ∧
    (s.sender.length = 26 → s.group.length = 1 → s.onOff.length = 1 → s.recip.length = 4 →
      c.length = 32 ∧ c.take 26 = s.sender ∧ (c.drop 26).take 1 = s.group ∧
        (c.drop 27).take 1 = s.onOff ∧ c.drop 28 = s.recip)

/-! ### Steps of the session and of the frame -/

/-- R172: `ACQUIRE`. -/
def Obligations.AcquireStep : Prop :=
  ∀ s : State,
    exec .acquire s =
      .next { s with
        outq := s.outq ++ [0x000000000#36], owned := true, rep := 0,
        seqState := if s.profile.preSil = true then .preSilence else .agc1 }

/-- R141, R146, R173: the steps that only emit one pulse event. -/
def Obligations.PulseSteps : Prop :=
  ∀ s : State,
    exec .agc1 s =
      .next { s with outq := s.outq ++ specHigh s.profile.tAgc1, seqState := .agc2 } ∧
    exec .close s =
      .next { s with outq := s.outq ++ specHigh s.profile.tHigh, seqState := .silence } ∧
    exec .preSilence s =
      .next { s with outq := s.outq ++ specLow s.profile.tSil, seqState := .agc1 }

/-- R142: `AGC2`. -/
def Obligations.Agc2Step : Prop :=
  ∀ s : State,
    exec .agc2 s =
      .next { s with
        outq := s.outq ++ specLow s.profile.tAgc2, bit := 0, half := false, seqState := .bitHigh }

/-- `BIT_HIGH`, with the check of the symbol at the first wire bit (R143). That a second error leaves `ERR` and
its details alone is R224 (log entry 25); `ERR_POS` takes the low five bits of `BIT` (log entry 20). -/
def Obligations.BitHighStep : Prop :=
  ∀ (s : State) (c : Symbol), s.cmd[s.bit]? = some c →
    (s.half = false → c ≠ 0x30#8 → c ≠ 0x31#8 → s.err = .none →
      exec .bitHigh s =
        .next { s with
          err := .defect, errPos := BitVec.ofNat 5 s.bit, errSym := c, seqState := .abort }) ∧
    (s.half = false → c ≠ 0x30#8 → c ≠ 0x31#8 → s.err ≠ .none →
      exec .bitHigh s = .next { s with seqState := .abort }) ∧
    (s.half = true ∨ c = 0x30#8 ∨ c = 0x31#8 →
      exec .bitHigh s =
        .next { s with outq := s.outq ++ specHigh s.profile.tHigh, seqState := .bitLow })

/-- R144: `BIT_LOW` of a valid symbol. -/
def Obligations.BitLowStep : Prop :=
  ∀ (s : State) (c : Symbol), s.cmd[s.bit]? = some c → c = 0x30#8 ∨ c = 0x31#8 →
    exec .bitLow s =
      .next { s with
        outq := s.outq ++
          specLow (if (decide (c = 0x31#8) ^^ s.half) = true then s.profile.tLow1 else s.profile.tLow0)
        half := !s.half
        bit := if s.half = true then s.bit + 1 else s.bit
        seqState := if s.half = true ∧ s.bit + 1 = 32 then .close else .bitHigh }

/-- Where the rules give the bit loop no value. `BIT_LOW` of an invalid symbol runs with a wire bit the
model leaves free (its choice, log entry 6); where `CMD` has no symbol at `BIT` both steps fault (its
choice, log entry 7). -/
def Obligations.BitLoopOutsideTheRules : Prop :=
  (∀ (s : State) (c : Symbol), s.cmd[s.bit]? = some c → c ≠ 0x30#8 → c ≠ 0x31#8 →
    ∃ w : Bool,
      exec .bitLow s =
        .next { s with
          outq := s.outq ++ specLow (if w = true then s.profile.tLow1 else s.profile.tLow0)
          half := !s.half
          bit := if s.half = true then s.bit + 1 else s.bit
          seqState := if s.half = true ∧ s.bit + 1 = 32 then .close else .bitHigh
          draws := s.draws + 1 }) ∧
  (∀ s : State, s.cmd[s.bit]? = none →
    exec .bitHigh s = .fault (.noSuchSymbol s.bit) ∧ exec .bitLow s = .fault (.noSuchSymbol s.bit))

/-- `SYM_ZERO` and `SYM_ONE` in the bit loop: the HIGH-space, and the LOW hold of wire bits [0,1] and
[1,0] (R82, R88, R89, R143, R144). -/
def Obligations.ValidSymbolSteps : Prop :=
  ∀ s : State,
    (s.seqState = .bitHigh →
      exec .symZero s =
        .next { s with outq := s.outq ++ specHigh s.profile.tHigh, seqState := .bitLow } ∧
      exec .symOne s =
        .next { s with outq := s.outq ++ specHigh s.profile.tHigh, seqState := .bitLow }) ∧
    (s.seqState = .bitLow → s.half = false →
      exec .symZero s =
        .next { s with
          outq := s.outq ++ specLow s.profile.tLow0, half := true, seqState := .bitHigh } ∧
      exec .symOne s =
        .next { s with
          outq := s.outq ++ specLow s.profile.tLow1, half := true, seqState := .bitHigh }) ∧
    (s.seqState = .bitLow → s.half = true →
      exec .symZero s =
        .next { s with
          outq := s.outq ++ specLow s.profile.tLow1, half := false, bit := s.bit + 1,
          seqState := if s.bit + 1 = 32 then .close else .bitHigh } ∧
      exec .symOne s =
        .next { s with
          outq := s.outq ++ specLow s.profile.tLow0, half := false, bit := s.bit + 1,
          seqState := if s.bit + 1 = 32 then .close else .bitHigh })

/-- R222: `SYM_INVALID` reached by the bit loop is a `ProtocolDefect`: nothing is emitted and `ABORT`
follows. `ERR_POS` takes the low five bits of `BIT` (log entry 20). -/
def Obligations.InvalidSymbolIsADefect : Prop :=
  ∀ (s : State) (c : Symbol), c ≠ 0x30#8 → c ≠ 0x31#8 → s.seqState = .bitHigh → s.half = false →
    s.err = .none →
      exec (.symInvalid c) s =
        .next { s with
          err := .defect, errPos := BitVec.ofNat 5 s.bit, errSym := c, seqState := .abort } ∧
      exec .abort { s with
          err := .defect, errPos := BitVec.ofNat 5 s.bit, errSym := c, seqState := .abort } =
        .next { s with
          err := .defect, errPos := BitVec.ofNat 5 s.bit, errSym := c,
          outq := s.outq ++ [0x400000000#36], seqState := .cleanupLow }

/-- A symbol has no effect in a state other than the two of the bit loop: its content is not examined
there (R124, R127, R145). -/
def Obligations.SymbolsOutsideTheBitLoop : Prop :=
  ∀ (s : State) (c : Symbol) (i : Instr), s.seqState ≠ .bitHigh → s.seqState ≠ .bitLow →
    decode (.symbol8 c) = .ok i → exec i s = .next s

/-- R147: `SILENCE` and the repetition decision. -/
def Obligations.SilenceStep : Prop :=
  ∀ s : State,
    exec .silence s =
      .next { s with
        outq := s.outq ++ specLow s.profile.tSil, rep := s.rep + 1,
        seqState := if s.rep + 1 < s.cfg.nRepeat then .agc1 else .cleanupLow }

/-- R148, R175, R176: `ABORT` and the cleanup pair. -/
def Obligations.CleanupSteps : Prop :=
  ∀ s : State,
    exec .abort s =
      .next { s with outq := s.outq ++ [0x400000000#36], seqState := .cleanupLow } ∧
    exec .cleanupLow s =
      .next { s with outq := s.outq ++ [0x400000000#36], seqState := .cleanupRelease } ∧
    exec .cleanupRelease s =
      .next { s with outq := s.outq ++ [0xC00000000#36], owned := false, seqState := .done }

/-- R177, R178: the terminal states have no internal step. -/
def Obligations.TerminalSteps : Prop :=
  ∀ s : State, exec .done s = .next s ∧ exec .rejected s = .next s ∧
    (s.seqState = .done ∨ s.seqState = .rejected → s.outq = [] → s.inputs = [] →
      step s = .next s ∧ s.doneFlag = true)

/-! ### PulseSink operations -/

/-- `CONFIGURE` at the PulseSink: answered `ok`, the pin is an output; the line shows any value (R201,
R206). What a failed `CONFIGURE` does to `DIR` the model leaves free (its choice, log entry 5). -/
def Obligations.ConfigureOperation : Prop :=
  ∀ (s : State) (a : Answer) (rest : List Answer), s.answers = a :: rest →
    ∃ d l n, exec .configure s = .next (specAnswered s 0x000000000#36 a rest d l n) ∧
      (a = .ok → d = .output)

/-- R202, R206: `SET_LEVEL` at the PulseSink. After a `fail`, or when `DIR` is not `output`, the line is
any value. -/
def Obligations.SetLevelOperation : Prop :=
  ∀ (s : State) (lv : Level) (a : Answer) (rest : List Answer), s.answers = a :: rest →
    ∃ l n,
      exec (.setLevel lv) s =
        .next (specAnswered s
          (match lv with
            | .low => 0x400000000#36
            | .high => 0x500000000#36) a rest s.dir l n) ∧
      (a = .ok → s.dir = .output →
        l = (match lv with
          | .low => .low
          | .high => .high))

/-- `HOLD_FOR` at the PulseSink leaves the line as it is and is traced with its nominal duration (R203, R206),
with the effects of R223 and R227 after a `fail`. That `LINE` stays after a `fail` too is the model's reading
(log entry 21). -/
def Obligations.HoldForOperation : Prop :=
  ∀ (s : State) (d : Duration) (a : Answer) (rest : List Answer), s.answers = a :: rest →
    exec (.holdFor d) s = .next (specAnswered s (specHold d) a rest s.dir s.line s.draws)

/-- `RELEASE` at the PulseSink (R204, R206), with the effects of R223 and R227 after a `fail`. The line of a
pin that was no output is any value; that its `DIR` is `released` is the model's choice (log entry 26). That
an output is released and undriven after a `fail` too is the model's reading (log entry 21). -/
def Obligations.ReleaseOperation : Prop :=
  ∀ (s : State) (a : Answer) (rest : List Answer), s.answers = a :: rest →
    ∃ l n, exec .release s = .next (specAnswered s 0xC00000000#36 a rest .released l n) ∧
      (s.dir = .output → l = .undriven)

/-- R223, R227: a `fail` answer to the head of `OUTQ`, as a step of the machine. -/
def Obligations.SinkFailureRedirects : Prop :=
  ∀ (s : State) (w : SinkWord) (q : List SinkWord) (i : Instr) (rest : List Answer),
    s.inputs = [] → s.outq = w :: q → decodeSink36 w = .ok i → s.answers = .fail :: rest →
      ∃ t, step s = .next t ∧ t.outq = [] ∧ t.trace = s.trace ++ [(w, .fail)] ∧
        (s.err = .none → t.err = .sinkFail ∧ t.errOp = w) ∧
        (s.err ≠ .none → t.err = s.err ∧ t.errOp = s.errOp) ∧
        t.errField = s.errField ∧ t.errLen = s.errLen ∧ t.errPos = s.errPos ∧
        t.errSym = s.errSym ∧
        (s.seqState = .cleanupRelease ∨ s.seqState = .done ∨ s.seqState = .rejected →
          t.seqState = s.seqState) ∧
        (¬(s.seqState = .cleanupRelease ∨ s.seqState = .done ∨ s.seqState = .rejected) →
          t.seqState = .cleanupLow) ∧
        t.rep = s.rep ∧ t.bit = s.bit ∧ t.half = s.half ∧ t.cmd = s.cmd ∧ t.owned = s.owned ∧
        t.sender = s.sender ∧ t.group = s.group ∧ t.onOff = s.onOff ∧ t.recip = s.recip ∧
        t.profile = s.profile

/-- While the PulseSink owes an answer the machine waits, with no fault and no end (R263, I15). -/
def Obligations.WaitsForThePulseSink : Prop :=
  ∀ (s : State) (w : SinkWord) (q : List SinkWord) (i : Instr), s.inputs = [] →
    s.outq = w :: q → decodeSink36 w = .ok i → s.answers = [] →
      step s = .next s ∧ s.doneFlag = false

/-! ### Flags, host reads and reset -/

/-- R32: the derived flags; exactly one of the three is 1. -/
def Obligations.DerivedFlags : Prop :=
  ∀ s : State,
    (s.ready = true ↔ s.seqState = .idle) ∧
    (s.doneFlag = true ↔ (s.seqState = .rejected ∨ s.seqState = .done) ∧ s.outq = []) ∧
    (s.busy = true ↔ s.ready = false ∧ s.doneFlag = false) ∧
    ¬(s.ready = true ∧ s.doneFlag = true) ∧
    (s.doneFlag = true → s.hostRead .code = .ok s.err.code.toNat) ∧
    (s.doneFlag = true → s.err = .none → s.hostRead .code = .ok 0)

/-- Host reads (R31, R32, R34, R66, R236). A detail register is read once `DONE = 1` under its `ERR` value,
`CODE` once `DONE = 1`, a flag at any time, each without effect on the block. Otherwise the read faults;
that it faults before `DONE = 1` is the model's choice (log entry 19). -/
def Obligations.DetailReads : Prop :=
  ∀ (s : State) (rest : List EnvMove),
    (∀ (r : HostReg) (need : ErrCode) (v : Nat),
      (r = .errField ∧ need = .rejected ∧ v = s.errField.code.toNat) ∨
        (r = .errLen ∧ need = .rejected ∧ v = s.errLen) ∨
        (r = .errPos ∧ need = .defect ∧ v = s.errPos.toNat) ∨
        (r = .errSym ∧ need = .defect ∧ v = s.errSym.toNat) ∨
        (r = .errOp ∧ need = .sinkFail ∧ v = s.errOp.toNat) →
      s.inputs = .read r :: rest →
        (s.doneFlag = true ∧ s.err = need →
          step s = .next { s with inputs := rest } ∧ s.hostRead r = .ok v) ∧
        (¬(s.doneFlag = true ∧ s.err = need) → step s = .fault (.statusNotValid r))) ∧
    (s.inputs = .read .code :: rest →
      (s.doneFlag = true →
        step s = .next { s with inputs := rest } ∧ s.hostRead .code = .ok s.err.code.toNat) ∧
      (s.doneFlag = false → step s = .fault (.statusNotValid .code))) ∧
    (∀ (r : HostReg) (v : Bool),
      (r = .ready ∧ v = s.ready) ∨ (r = .busy ∧ v = s.busy) ∨ (r = .done ∧ v = s.doneFlag) →
      s.inputs = .read r :: rest →
        step s = .next { s with inputs := rest } ∧ s.hostRead r = .ok v.toNat)

/-- R250: reset, from any state. -/
def Obligations.ResetStep : Prop :=
  (∀ (s : State) (f : Option Answer) (rest : List EnvMove), s.inputs = .reset f :: rest →
    ∃ t, step s = .next t ∧ t.seqState = .idle ∧ t.err = .none ∧ t.owned = false ∧ t.outq = [] ∧
      t.trace = [] ∧ t.ready = true ∧ t.busy = false ∧ t.doneFlag = false ∧ t.cfg = s.cfg ∧
      t.inputs = rest ∧ t.answers = s.answers) ∧
  (∀ s t : State, s.seqState = .done ∨ s.seqState = .rejected → step s = .next t →
    t.seqState ≠ s.seqState → ∃ f rest, s.inputs = .reset f :: rest)

/-- The pin across a reset (R251): it keeps `DIR` and `LINE` when nothing was in flight or the PulseSink
does not complete it; a `SET_LEVEL` it does complete sets the line of an output. -/
def Obligations.ResetLeavesThePin : Prop :=
  ∀ (s t : State) (f : Option Answer) (rest : List EnvMove), s.inputs = .reset f :: rest →
    step s = .next t →
      (f = none ∨ s.outq = [] → t.dir = s.dir ∧ t.line = s.line) ∧
      (∀ q, f = some .ok → s.outq = 0x400000000#36 :: q → s.dir = .output →
        t.dir = .output ∧ t.line = .low) ∧
      (∀ q, f = some .ok → s.outq = 0x500000000#36 :: q → s.dir = .output →
        t.dir = .output ∧ t.line = .high)

/-- The values R41 gives the state after reset. -/
def Obligations.ResetValues : Prop :=
  State.reset.seqState = .idle ∧ State.reset.err = .none ∧ State.reset.owned = false ∧
  State.reset.outq = [] ∧ State.reset.trace = [] ∧ State.reset.ready = true ∧
  State.reset.busy = false ∧ State.reset.doneFlag = false ∧ 1 ≤ State.reset.cfg.nRepeat

/-! ### Whole-machine rules -/

/-- Every step keeps the invariant of a session, from every state that has it. -/
def Obligations.StepKeepsTheSessionShape : Prop :=
  ∀ s t : State, Inv s → step s = .next t → Inv t

/-- The state after reset has the invariant. -/
def Obligations.ResetHasTheSessionShape : Prop := Inv State.reset

/-- R40: no step writes the configuration. -/
def Obligations.ConfigurationNeverChanges : Prop :=
  ∀ s t : State, step s = .next t → t.cfg = s.cfg

/-- R224: first error wins. -/
def Obligations.FirstErrorWins : Prop :=
  ∀ s t : State, step s = .next t → s.err ≠ .none → resetNext s = false → requestNext s = false →
    t.err = s.err ∧ t.errField = s.errField ∧ t.errLen = s.errLen ∧ t.errPos = s.errPos ∧
      t.errSym = s.errSym ∧ t.errOp = s.errOp

/-- The request registers change only by the request transaction or reset, and `CMD` only by the
`ENCODING` step or reset (R21, R26, R30, R71). -/
def Obligations.CommandAndProfileAreImmutable : Prop :=
  ∀ s t : State, step s = .next t → resetNext s = false →
    (requestNext s = false →
      t.sender = s.sender ∧ t.group = s.group ∧ t.onOff = s.onOff ∧ t.recip = s.recip ∧
        t.profile = s.profile) ∧
    (s.seqState ≠ .encoding ∨ s.outq ≠ [] → t.cmd = s.cmd)

/-- Once `DONE = 1` nothing of the machine changes until reset (R72, R228, R235), but the pin where another
agent touches it. -/
def Obligations.DoneIsFinal : Prop :=
  ∀ s t : State, s.doneFlag = true → step s = .next t → resetNext s = false →
    ∃ d l, t = { s with inputs := s.inputs.tail, dir := d, line := l } ∧
      (touchNext s = false → d = s.dir ∧ l = s.line)

/-- A step follows an edge of the transition table of R174 or stays in its state. -/
def Obligations.TransitionTable : Prop :=
  ∀ s t : State, Inv s → step s = .next t → resetNext s = false →
    t.seqState = s.seqState ∨ t.seqState ∈ s.seqState.successors

/-- One operation at a time (R36, R66, R68, R206): while `OUTQ` is not empty only its head can complete, and
it enters the trace once, at the end; while `OUTQ` is empty the trace does not change. -/
def Obligations.OneOperationAtATime : Prop :=
  ∀ s t : State, s.inputs = [] → step s = .next t →
    (s.outq = [] → t.trace = s.trace) ∧
    (∀ w q, s.outq = w :: q →
      t = s ∨ ∃ a, t.trace = s.trace ++ [(w, a)] ∧ t.rep = s.rep ∧ t.bit = s.bit ∧
        t.half = s.half ∧ t.cmd = s.cmd ∧
        (a = .ok → t.outq = q ∧ t.seqState = s.seqState) ∧ (a = .fail → t.outq = []))

/-- Where R207 gives the level on the line, the line shows it: every step keeps this unless another agent
touches the pin, and under the premise `Exclusive` (R208, R252) it holds all along a run from reset. A touch
changes the pin and nothing else; that it is a move of its own is the model's choice (log entry 16). -/
def Obligations.ObservableLevelIsOnTheLine : Prop :=
  (∀ s t : State, (∀ l, s.observableLevel = some l → s.line = l.toLine) → touchNext s = false →
    step s = .next t → ∀ l, t.observableLevel = some l → t.line = l.toLine) ∧
  (∀ (k : Nat) (s t : State), ResetDone s → ConfigFixed s → Exclusive s →
    Sys2Proof.core.run k s = .next t → ∀ l, t.observableLevel = some l → t.line = l.toLine) ∧
  (∀ (s : State) (d : Dir) (l : Line) (rest : List EnvMove), s.inputs = .touchPin d l :: rest →
    step s = .next { s with inputs := rest, dir := d, line := l })

/-- Under the premise `NoResetMidSession` (R251, R252) the pin stays owned until the session is in `DONE`:
no session is abandoned with the pin held (R33, R183). -/
def Obligations.PinIsOwnedUntilDone : Prop :=
  ∀ (k : Nat) (s t : State), Inv s → s.owned = true → NoResetMidSession s →
    Sys2Proof.core.run k s = .next t →
      t.owned = true ∨ ∃ j u, j ≤ k ∧ Sys2Proof.core.run j s = .next u ∧ u.seqState = .done

/-- No step reads a register that holds no value (R39): two states that differ only in such registers
step alike. So the values the model names for them at reset (its choice, log entry 1) never show. -/
def Obligations.UnwrittenRegistersAreNeverRead : Prop :=
  ∀ s t : State, Inv s → SameWritten s t → SameOutcome (step s) (step t)

/-- R183: in every ended run from reset, whatever the host and the PulseSink do. -/
def Obligations.SessionGuarantees : Prop :=
  ∀ (k : Nat) (s t : State), ResetDone s → ConfigFixed s → Sys2Proof.core.run k s = .next t →
    t.doneFlag = true →
      t.owned = false ∧
      (t.seqState = .done →
        (t.trace.map Prod.fst).head? = some 0x000000000#36 ∧
        ∃ before a b, t.trace = before ++ [(0x400000000#36, a), (0xC00000000#36, b)] ∧
          (a = .ok → (before ++ [(0x400000000#36, a)]).foldl driveLevel none = some .low)) ∧
      (t.seqState = .rejected →
        t.trace.map Prod.fst = [] ∨ t.trace.map Prod.fst = [0xC00000000#36])

/-- R181: with every answer `ok`, the run of a request ends with the trace and the status of the
session function. -/
def Obligations.RunIsTheSessionFunction : Prop :=
  ∀ (s : State) (r : Request), ResetDone s → ConfigFixed s → s.inputs = [.request r] →
    SinkReliable s → (session s.cfg r).1.length ≤ s.answers.length →
      ∃ k t, Sys2Proof.core.run k s = .next t ∧ t.doneFlag = true ∧
        t.trace = (session s.cfg r).1.map (fun w => (w, Answer.ok)) ∧
        t.status = (session s.cfg r).2

/-- R263: a run ends if the PulseSink answers, whatever it answers. -/
def Obligations.RunsEnd : Prop :=
  ∀ s : State, Inv s → s.inputs = [] → s.seqState ≠ .idle →
    2 * s.budget + s.outq.length ≤ s.answers.length →
      ∃ k t, k ≤ 3 * s.budget + s.outq.length ∧ Sys2Proof.core.run k s = .next t ∧
        t.doneFlag = true

/-- R263: a run from an accepted request ends under the premises of R252, `SinkAnswers` among them, whatever
the answers are, within three moves for each of `5 + PRE_SIL + 132·N_REPEAT` internal steps (the step and
the at most two operations it emits) and the request's own move. -/
def Obligations.AcceptedRequestsEnd : Prop :=
  ∀ (s : State) (r : Request), ConfigFixed s → ResetDone s → ProfileChosen r → SinkAnswers s →
    s.inputs = [.request r] →
      ∃ k t,
        k ≤ 1 + 3 * (5 + (if r.profile.preSil = true then 1 else 0) + 132 * s.cfg.nRepeat) ∧
        Sys2Proof.core.run k s = .next t ∧ t.doneFlag = true

/-- The bound on internal steps (R263): each enabled internal step happens, uses up at least one of the
budget and emits at most two operations; nothing else adds to the budget; the budget of an accepted
request is `5 + PRE_SIL + 132·N_REPEAT`. -/
def Obligations.InternalStepsAreBounded : Prop :=
  (∀ s : State, Inv s → s.inputs = [] → s.stepEnabled = true →
    ∃ t, step s = .next t ∧ t.budget + 1 ≤ s.budget ∧ t.outq.length ≤ 2) ∧
  (∀ s t : State, Inv s → s.inputs = [] → step s = .next t → t.budget ≤ s.budget) ∧
  (∀ s : State, s.seqState = .validating →
    s.budget = 5 + (if s.profile.preSil = true then 1 else 0) + 132 * s.cfg.nRepeat)

/-! ### Streams -/

/-- R182: the operation counts and PulseEvent counts of a session with every answer `ok`. -/
def Obligations.OperationCounts : Prop :=
  ∀ (cfg : Params) (r : Request), 1 ≤ cfg.nRepeat →
    (∀ f n, r.firstWrongField = some (f, n) →
      (session cfg r).1.length = (if cfg.releaseOnReject = true then 1 else 0) ∧
      pulseEventCount (session cfg r).1 = 0) ∧
    (r.firstWrongField = none → (∀ c ∈ r.command, validSymbol c = true) →
      (session cfg r).1.length =
        264 * cfg.nRepeat + 2 * (if r.profile.preSil = true then 1 else 0) + 3 ∧
      pulseEventCount (session cfg r).1 =
        132 * cfg.nRepeat + (if r.profile.preSil = true then 1 else 0) ∧
      (session cfg r).2 = .ok) ∧
    (∀ k c, r.firstWrongField = none → r.command[k]? = some c → validSymbol c = false →
      (∀ j b, j < k → r.command[j]? = some b → validSymbol b = true) →
        (session cfg r).1.length = 8 * k + 2 * (if r.profile.preSil = true then 1 else 0) + 8 ∧
        pulseEventCount (session cfg r).1 =
          2 + 4 * k + (if r.profile.preSil = true then 1 else 0) ∧
        (session cfg r).2 = .defect k c)

/-- R91: a frame is the 132 pulse events of the index table, of alternating levels. -/
def Obligations.FrameIsTheIndexTable : Prop :=
  ∀ (p : TimingProfile) (bits : List Bool), bits.length = 32 →
    frameOps p bits =
      (List.range 132).flatMap (fun e =>
        [match (frameEvent p bits e).1 with
          | .low => 0x400000000#36
          | .high => 0x500000000#36,
         specHold (frameEvent p bits e).2]) ∧
    (∀ e, e < 132 → (frameEvent p bits e).1 = if e % 2 = 0 then .high else .low)

/-- R257, R258, R259: nominal durations of a logical bit, of a frame and of a session. -/
def Obligations.NominalDurations : Prop :=
  (∀ (p : TimingProfile) (b : Bool),
    nominalSum (lbitOps p b) = 2 * p.tHigh.toNat + p.tLow0.toNat + p.tLow1.toNat) ∧
  (∀ (p : TimingProfile) (bits : List Bool), bits.length = 32 →
    nominalSum (frameOps p bits) =
      p.tAgc1.toNat + p.tAgc2.toNat + 65 * p.tHigh.toNat + 32 * (p.tLow0.toNat + p.tLow1.toNat) +
        p.tSil.toNat) ∧
  (∀ (cfg : Params) (r : Request), 1 ≤ cfg.nRepeat →
    (r.firstWrongField ≠ none → nominalSum (session cfg r).1 = 0) ∧
    (r.firstWrongField = none → (∀ c ∈ r.command, validSymbol c = true) →
      nominalSum (session cfg r).1 =
        cfg.nRepeat * frameNominal r.profile +
          (if r.profile.preSil = true then r.profile.tSil.toNat else 0)) ∧
    (∀ k c, r.firstWrongField = none → r.command[k]? = some c → validSymbol c = false →
      (∀ j b, j < k → r.command[j]? = some b → validSymbol b = true) →
        nominalSum (session cfg r).1 =
          (if r.profile.preSil = true then r.profile.tSil.toNat else 0) + r.profile.tAgc1.toNat +
            r.profile.tAgc2.toNat +
            k * (2 * r.profile.tHigh.toNat + r.profile.tLow0.toNat + r.profile.tLow1.toNat)))

/-- R151: two profiles of equal `PRE_SIL` give streams that differ only in the durations of holds; else
the one with `PRE_SIL = 1` has the pre-session silence inserted after `CONFIGURE`. -/
def Obligations.ProfileIndependence : Prop :=
  ∀ (cfg : Params) (r : Request) (p q : TimingProfile),
    (p.preSil = q.preSil →
      (session cfg { r with profile := p }).1.map eraseDuration =
        (session cfg { r with profile := q }).1.map eraseDuration ∧
      (session cfg { r with profile := p }).2 = (session cfg { r with profile := q }).2) ∧
    (p.preSil = true → q.preSil = false → r.firstWrongField = none →
      ∃ a b,
        (session cfg { r with profile := p }).1 = 0x000000000#36 :: (specLow p.tSil ++ a) ∧
        (session cfg { r with profile := q }).1 = 0x000000000#36 :: b ∧
        a.map eraseDuration = b.map eraseDuration)

/-- R63: the packed view of a command of 32 valid symbols. -/
def Obligations.PackedView : Prop :=
  ∀ cmd : SymString, cmd.length = 32 → (∀ c ∈ cmd, validSymbol c = true) →
    ∃ w, packedCommand cmd = some w ∧
      ∀ p, p < 32 → bitval (cmd.getD p 0x00#8) = some (w.getLsbD (31 - p))

/-- Exactly one of the two presets emits the pre-session silence (R28). -/
def Obligations.PresetsDifferInPreSilence : Prop :=
  ProfileChoice.revA.profile.preSil ≠ ProfileChoice.revB.profile.preSil

/-- R100, R102: the words of the operations, whichever way a duration is written, and the expansions of the
pseudo-operations. -/
def Obligations.PseudoOperations : Prop :=
  ∀ p : TimingProfile,
    assemble p .configure = [0x000000000#36] ∧
    assemble p (.setLevel .low) = [0x400000000#36] ∧
    assemble p (.setLevel .high) = [0x500000000#36] ∧
    (∀ d : Duration, assemble p (.holdFor (.literal d)) = [specHold d]) ∧
    assemble p (.holdFor .tAgc1) = [specHold p.tAgc1] ∧
    assemble p (.holdFor .tAgc2) = [specHold p.tAgc2] ∧
    assemble p (.holdFor .tSil) = [specHold p.tSil] ∧
    assemble p (.holdFor .tHigh) = [specHold p.tHigh] ∧
    assemble p (.holdFor .tLow0) = [specHold p.tLow0] ∧
    assemble p (.holdFor .tLow1) = [specHold p.tLow1] ∧
    assemble p .release = [0xC00000000#36] ∧
    (∀ d : AsmDuration,
      assemble p (.pulse .low d) = assemble p (.setLevel .low) ++ assemble p (.holdFor d) ∧
      assemble p (.pulse .high d) = assemble p (.setLevel .high) ++ assemble p (.holdFor d)) ∧
    assemble p (.wire false) = assemble p (.pulse .high .tHigh) ++ assemble p (.pulse .low .tLow0) ∧
    assemble p (.wire true) = assemble p (.pulse .high .tHigh) ++ assemble p (.pulse .low .tLow1) ∧
    (∀ b, assemble p (.lbit b) = assemble p (.wire b) ++ assemble p (.wire (!b))) ∧
    assemble p .preamble = assemble p (.pulse .high .tAgc1) ++ assemble p (.pulse .low .tAgc2) ∧
    assemble p .trailer = assemble p (.pulse .high .tHigh) ++ assemble p (.pulse .low .tSil) ∧
    (∀ bits : List Bool,
      assemble p (.frame bits) =
        assemble p .preamble ++ bits.flatMap (fun b => assemble p (.lbit b)) ++
          assemble p .trailer) ∧
    assemble p .presil = assemble p (.pulse .low .tSil)
end

