-- ==== Sys2Proof/Laws/Words.lean ====
section
/-! SUPPORT. Laws/Words.lean: the sink words as numbers (R93), their fields, and what the decoder makes
of them. -/

namespace Sys2Proof

@[simp] theorem configureWord_eq : configureWord = 0x000000000#36 := by decide

@[simp] theorem releaseWord_eq : releaseWord = 0xC00000000#36 := by decide

@[simp] theorem setLevelWord_low : setLevelWord .low = 0x400000000#36 := by decide

@[simp] theorem setLevelWord_high : setLevelWord .high = 0x500000000#36 := by decide

theorem sinkWord_toNat (op : BitVec 2) (l : BitVec 1) (d : Duration) :
    (sinkWord op l d).toNat = 0x400000000 * op.toNat + 0x100000000 * l.toNat + d.toNat := by
  have hd := d.isLt
  have hl := l.isLt
  simp only [sinkWord, BitVec.toNat_append]
  rw [← Nat.shiftLeft_add_eq_or_of_lt hd, ← Nat.shiftLeft_add_eq_or_of_lt hl,
    ← Nat.shiftLeft_add_eq_or_of_lt (by decide : (0b0#1).toNat < 2 ^ 1)]
  simp only [Nat.shiftLeft_eq, BitVec.toNat_ofNat]
  omega

theorem holdForWord_toNat (d : Duration) : (holdForWord d).toNat = 0x800000000 + d.toNat := by
  simp [holdForWord, sinkWord_toNat]

theorem specHold_toNat (d : Duration) : (Machine.specHold d).toNat = 0x800000000 + d.toNat := by
  have hd := d.isLt
  have h : (0x800000000 : Nat) ||| d.toNat = 0x800000000 + d.toNat :=
    (Nat.shiftLeft_add_eq_or_of_lt hd 8).symm
  rw [Machine.specHold, BitVec.toNat_or, BitVec.toNat_setWidth, Nat.mod_eq_of_lt (by omega)]
  exact h

theorem holdForWord_eq (d : Duration) : holdForWord d = Machine.specHold d :=
  BitVec.eq_of_toNat_eq (by rw [holdForWord_toNat, specHold_toNat])

/-! ### Fields by number -/

theorem sinkOp_toNat (w : SinkWord) : (sinkOp w).toNat = w.toNat / 0x400000000 := by
  have hw := w.isLt
  simp only [sinkOp, BitVec.extractLsb'_toNat, Nat.shiftRight_eq_div_pow]
  omega

theorem sinkDur_toNat (w : SinkWord) : (sinkDur w).toNat = w.toNat % 0x100000000 := by
  simp [sinkDur, BitVec.extractLsb'_toNat]

theorem sinkLevel_iff (w : SinkWord) : sinkLevel w = true ↔ w.toNat / 0x100000000 % 2 = 1 := by
  simp [sinkLevel, BitVec.getLsbD, Nat.testBit, Nat.shiftRight_eq_div_pow, Nat.and_comm 1,
    Nat.and_one_is_mod]

theorem sinkReserved_iff (w : SinkWord) :
    sinkReserved w = true ↔ w.toNat / 0x200000000 % 2 = 1 := by
  simp [sinkReserved, BitVec.getLsbD, Nat.testBit, Nat.shiftRight_eq_div_pow, Nat.and_comm 1,
    Nat.and_one_is_mod]

@[simp] theorem sinkOp_sinkWord (op : BitVec 2) (l : BitVec 1) (d : Duration) :
    sinkOp (sinkWord op l d) = op := by
  have := op.isLt
  have := l.isLt
  have := d.isLt
  apply BitVec.eq_of_toNat_eq
  rw [sinkOp_toNat, sinkWord_toNat]
  omega

@[simp] theorem sinkDur_sinkWord (op : BitVec 2) (l : BitVec 1) (d : Duration) :
    sinkDur (sinkWord op l d) = d := by
  have := d.isLt
  apply BitVec.eq_of_toNat_eq
  rw [sinkDur_toNat, sinkWord_toNat]
  omega

@[simp] theorem sinkReserved_sinkWord (op : BitVec 2) (l : BitVec 1) (d : Duration) :
    sinkReserved (sinkWord op l d) = false := by
  have := l.isLt
  have := d.isLt
  rw [Bool.eq_false_iff, ne_eq, sinkReserved_iff, sinkWord_toNat]
  omega

@[simp] theorem sinkLevel_sinkWord (op : BitVec 2) (l : BitVec 1) (d : Duration) :
    sinkLevel (sinkWord op l d) = (l == 1#1) := by
  have := l.isLt
  have := d.isLt
  rw [Bool.eq_iff_iff, sinkLevel_iff, sinkWord_toNat, beq_iff_eq, ← BitVec.toNat_inj]
  simp only [BitVec.toNat_ofNat]
  omega

/-- A word is its four fields (R93). -/
theorem sinkWord_fields (w : SinkWord) (h : sinkReserved w = false) :
    sinkWord (sinkOp w) (BitVec.ofBool (sinkLevel w)) (sinkDur w) = w := by
  have hr : ¬ w.toNat / 0x200000000 % 2 = 1 := by
    rw [← sinkReserved_iff, h]; decide
  have hl := sinkLevel_iff w
  apply BitVec.eq_of_toNat_eq
  rw [sinkWord_toNat, sinkOp_toNat, sinkDur_toNat]
  cases hb : sinkLevel w
  · have : ¬ w.toNat / 0x100000000 % 2 = 1 := by rw [← hl, hb]; decide
    rw [show (BitVec.ofBool false).toNat = 0 from rfl]
    omega
  · have := hl.mp hb
    rw [show (BitVec.ofBool true).toNat = 1 from rfl]
    omega

/-! ### Decoding the words the block emits -/

@[simp] theorem decodeSink36_configure : decodeSink36 0x000000000#36 = .ok .configure := by decide

@[simp] theorem decodeSink36_low : decodeSink36 0x400000000#36 = .ok (.setLevel .low) := by decide

@[simp] theorem decodeSink36_high : decodeSink36 0x500000000#36 = .ok (.setLevel .high) := by decide

@[simp] theorem decodeSink36_release : decodeSink36 0xC00000000#36 = .ok .release := by decide

@[simp] theorem decodeSink36_holdFor (d : Duration) :
    decodeSink36 (holdForWord d) = .ok (.holdFor d) := by
  simp [decodeSink36, holdForWord]

@[simp] theorem decodeSink36_specHold (d : Duration) :
    decodeSink36 (Machine.specHold d) = .ok (.holdFor d) := by
  rw [← holdForWord_eq, decodeSink36_holdFor]

@[simp] theorem decodeSeqState4_code (q : SeqState) : decodeSeqState4 q.code = q.instr := by
  cases q <;> rfl

/-- The only instructions a sink word decodes to, each with the word it has (R93). -/
theorem decodeSink36_cases {w : SinkWord} {i : Instr} (h : decodeSink36 w = .ok i) :
    (i = .configure ∧ w = configureWord) ∨ (∃ l, i = .setLevel l ∧ w = setLevelWord l) ∨
      (∃ d, i = .holdFor d ∧ w = holdForWord d) ∨ (i = .release ∧ w = releaseWord) := by
  unfold decodeSink36 at h
  split at h
  · cases h
  · rename_i hr
    have hw := sinkWord_fields w (by simpa using hr)
    split at h
    · rename_i h0
      simp only [withNoOperand] at h
      split at h
      · cases h
      split at h
      · cases h
      rename_i hl hd
      cases h
      refine .inl ⟨rfl, ?_⟩
      rw [← hw, h0, not_ne_iff.mp hd, Bool.not_eq_true _ |>.mp hl]; rfl
    split at h
    · rename_i h1
      split at h
      · cases h
      rename_i hd
      cases h
      refine .inr (.inl ⟨_, rfl, ?_⟩)
      rw [← hw, h1, not_ne_iff.mp hd]
      simp only [sinkLevel_sinkWord]
      cases sinkLevel w <;> rfl
    split at h
    · rename_i h2
      split at h
      · cases h
      rename_i hl
      cases h
      refine .inr (.inr (.inl ⟨_, rfl, ?_⟩))
      rw [← hw, h2, Bool.not_eq_true _ |>.mp hl]
      simp [holdForWord]
    · rename_i h0 h1 h2
      have h3 : sinkOp w = 0b11#2 := by
        revert h0 h1 h2
        generalize sinkOp w = o
        revert o; decide
      simp only [withNoOperand] at h
      split at h
      · cases h
      split at h
      · cases h
      rename_i hl hd
      cases h
      refine .inr (.inr (.inr ⟨rfl, ?_⟩))
      rw [← hw, h3, not_ne_iff.mp hd, Bool.not_eq_true _ |>.mp hl]; rfl

end Sys2Proof
end

