-- ==== Sys2Proof/Laws/State.lean ====
section
/-! SUPPORT. Laws/State.lean: one lemma for each field of State under each named update. -/

namespace Sys2Proof.Machine

section
variable (s : State)

/-! ### `goTo` -/

@[simp] theorem State.goTo_seqState (q : SeqState) : (s.goTo q).seqState = q := rfl

@[simp] theorem State.goTo_rep (q : SeqState) : (s.goTo q).rep = s.rep := rfl

@[simp] theorem State.goTo_bit (q : SeqState) : (s.goTo q).bit = s.bit := rfl

@[simp] theorem State.goTo_half (q : SeqState) : (s.goTo q).half = s.half := rfl

@[simp] theorem State.goTo_sender (q : SeqState) : (s.goTo q).sender = s.sender := rfl

@[simp] theorem State.goTo_group (q : SeqState) : (s.goTo q).group = s.group := rfl

@[simp] theorem State.goTo_onOff (q : SeqState) : (s.goTo q).onOff = s.onOff := rfl

@[simp] theorem State.goTo_recip (q : SeqState) : (s.goTo q).recip = s.recip := rfl

@[simp] theorem State.goTo_profile (q : SeqState) : (s.goTo q).profile = s.profile := rfl

@[simp] theorem State.goTo_cmd (q : SeqState) : (s.goTo q).cmd = s.cmd := rfl

@[simp] theorem State.goTo_err (q : SeqState) : (s.goTo q).err = s.err := rfl

@[simp] theorem State.goTo_errField (q : SeqState) : (s.goTo q).errField = s.errField := rfl

@[simp] theorem State.goTo_errLen (q : SeqState) : (s.goTo q).errLen = s.errLen := rfl

@[simp] theorem State.goTo_errPos (q : SeqState) : (s.goTo q).errPos = s.errPos := rfl

@[simp] theorem State.goTo_errSym (q : SeqState) : (s.goTo q).errSym = s.errSym := rfl

@[simp] theorem State.goTo_errOp (q : SeqState) : (s.goTo q).errOp = s.errOp := rfl

@[simp] theorem State.goTo_owned (q : SeqState) : (s.goTo q).owned = s.owned := rfl

@[simp] theorem State.goTo_outq (q : SeqState) : (s.goTo q).outq = s.outq := rfl

@[simp] theorem State.goTo_trace (q : SeqState) : (s.goTo q).trace = s.trace := rfl

@[simp] theorem State.goTo_dir (q : SeqState) : (s.goTo q).dir = s.dir := rfl

@[simp] theorem State.goTo_line (q : SeqState) : (s.goTo q).line = s.line := rfl

@[simp] theorem State.goTo_cfg (q : SeqState) : (s.goTo q).cfg = s.cfg := rfl

@[simp] theorem State.goTo_inputs (q : SeqState) : (s.goTo q).inputs = s.inputs := rfl

@[simp] theorem State.goTo_answers (q : SeqState) : (s.goTo q).answers = s.answers := rfl

@[simp] theorem State.goTo_draws (q : SeqState) : (s.goTo q).draws = s.draws := rfl

/-! ### `emit` -/

@[simp] theorem State.emit_seqState (w : SinkWord) : (s.emit w).seqState = s.seqState := rfl

@[simp] theorem State.emit_rep (w : SinkWord) : (s.emit w).rep = s.rep := rfl

@[simp] theorem State.emit_bit (w : SinkWord) : (s.emit w).bit = s.bit := rfl

@[simp] theorem State.emit_half (w : SinkWord) : (s.emit w).half = s.half := rfl

@[simp] theorem State.emit_sender (w : SinkWord) : (s.emit w).sender = s.sender := rfl

@[simp] theorem State.emit_group (w : SinkWord) : (s.emit w).group = s.group := rfl

@[simp] theorem State.emit_onOff (w : SinkWord) : (s.emit w).onOff = s.onOff := rfl

@[simp] theorem State.emit_recip (w : SinkWord) : (s.emit w).recip = s.recip := rfl

@[simp] theorem State.emit_profile (w : SinkWord) : (s.emit w).profile = s.profile := rfl

@[simp] theorem State.emit_cmd (w : SinkWord) : (s.emit w).cmd = s.cmd := rfl

@[simp] theorem State.emit_err (w : SinkWord) : (s.emit w).err = s.err := rfl

@[simp] theorem State.emit_errField (w : SinkWord) : (s.emit w).errField = s.errField := rfl

@[simp] theorem State.emit_errLen (w : SinkWord) : (s.emit w).errLen = s.errLen := rfl

@[simp] theorem State.emit_errPos (w : SinkWord) : (s.emit w).errPos = s.errPos := rfl

@[simp] theorem State.emit_errSym (w : SinkWord) : (s.emit w).errSym = s.errSym := rfl

@[simp] theorem State.emit_errOp (w : SinkWord) : (s.emit w).errOp = s.errOp := rfl

@[simp] theorem State.emit_owned (w : SinkWord) : (s.emit w).owned = s.owned := rfl

@[simp] theorem State.emit_outq (w : SinkWord) : (s.emit w).outq = s.outq ++ [w] := rfl

@[simp] theorem State.emit_trace (w : SinkWord) : (s.emit w).trace = s.trace := rfl

@[simp] theorem State.emit_dir (w : SinkWord) : (s.emit w).dir = s.dir := rfl

@[simp] theorem State.emit_line (w : SinkWord) : (s.emit w).line = s.line := rfl

@[simp] theorem State.emit_cfg (w : SinkWord) : (s.emit w).cfg = s.cfg := rfl

@[simp] theorem State.emit_inputs (w : SinkWord) : (s.emit w).inputs = s.inputs := rfl

@[simp] theorem State.emit_answers (w : SinkWord) : (s.emit w).answers = s.answers := rfl

@[simp] theorem State.emit_draws (w : SinkWord) : (s.emit w).draws = s.draws := rfl

/-! ### `pulse` -/

@[simp] theorem State.pulse_seqState (l : Level) (d : Duration) : (s.pulse l d).seqState = s.seqState := rfl

@[simp] theorem State.pulse_rep (l : Level) (d : Duration) : (s.pulse l d).rep = s.rep := rfl

@[simp] theorem State.pulse_bit (l : Level) (d : Duration) : (s.pulse l d).bit = s.bit := rfl

@[simp] theorem State.pulse_half (l : Level) (d : Duration) : (s.pulse l d).half = s.half := rfl

@[simp] theorem State.pulse_sender (l : Level) (d : Duration) : (s.pulse l d).sender = s.sender := rfl

@[simp] theorem State.pulse_group (l : Level) (d : Duration) : (s.pulse l d).group = s.group := rfl

@[simp] theorem State.pulse_onOff (l : Level) (d : Duration) : (s.pulse l d).onOff = s.onOff := rfl

@[simp] theorem State.pulse_recip (l : Level) (d : Duration) : (s.pulse l d).recip = s.recip := rfl

@[simp] theorem State.pulse_profile (l : Level) (d : Duration) : (s.pulse l d).profile = s.profile := rfl

@[simp] theorem State.pulse_cmd (l : Level) (d : Duration) : (s.pulse l d).cmd = s.cmd := rfl

@[simp] theorem State.pulse_err (l : Level) (d : Duration) : (s.pulse l d).err = s.err := rfl

@[simp] theorem State.pulse_errField (l : Level) (d : Duration) : (s.pulse l d).errField = s.errField := rfl

@[simp] theorem State.pulse_errLen (l : Level) (d : Duration) : (s.pulse l d).errLen = s.errLen := rfl

@[simp] theorem State.pulse_errPos (l : Level) (d : Duration) : (s.pulse l d).errPos = s.errPos := rfl

@[simp] theorem State.pulse_errSym (l : Level) (d : Duration) : (s.pulse l d).errSym = s.errSym := rfl

@[simp] theorem State.pulse_errOp (l : Level) (d : Duration) : (s.pulse l d).errOp = s.errOp := rfl

@[simp] theorem State.pulse_owned (l : Level) (d : Duration) : (s.pulse l d).owned = s.owned := rfl

@[simp] theorem State.pulse_outq (l : Level) (d : Duration) :
    (s.pulse l d).outq = s.outq ++ [setLevelWord l, holdForWord d] := by
  simp [State.pulse, State.emit]

@[simp] theorem State.pulse_trace (l : Level) (d : Duration) : (s.pulse l d).trace = s.trace := rfl

@[simp] theorem State.pulse_dir (l : Level) (d : Duration) : (s.pulse l d).dir = s.dir := rfl

@[simp] theorem State.pulse_line (l : Level) (d : Duration) : (s.pulse l d).line = s.line := rfl

@[simp] theorem State.pulse_cfg (l : Level) (d : Duration) : (s.pulse l d).cfg = s.cfg := rfl

@[simp] theorem State.pulse_inputs (l : Level) (d : Duration) : (s.pulse l d).inputs = s.inputs := rfl

@[simp] theorem State.pulse_answers (l : Level) (d : Duration) : (s.pulse l d).answers = s.answers := rfl

@[simp] theorem State.pulse_draws (l : Level) (d : Duration) : (s.pulse l d).draws = s.draws := rfl

/-! ### `drawn` -/

@[simp] theorem State.drawn_seqState : (s.drawn).seqState = s.seqState := rfl

@[simp] theorem State.drawn_rep : (s.drawn).rep = s.rep := rfl

@[simp] theorem State.drawn_bit : (s.drawn).bit = s.bit := rfl

@[simp] theorem State.drawn_half : (s.drawn).half = s.half := rfl

@[simp] theorem State.drawn_sender : (s.drawn).sender = s.sender := rfl

@[simp] theorem State.drawn_group : (s.drawn).group = s.group := rfl

@[simp] theorem State.drawn_onOff : (s.drawn).onOff = s.onOff := rfl

@[simp] theorem State.drawn_recip : (s.drawn).recip = s.recip := rfl

@[simp] theorem State.drawn_profile : (s.drawn).profile = s.profile := rfl

@[simp] theorem State.drawn_cmd : (s.drawn).cmd = s.cmd := rfl

@[simp] theorem State.drawn_err : (s.drawn).err = s.err := rfl

@[simp] theorem State.drawn_errField : (s.drawn).errField = s.errField := rfl

@[simp] theorem State.drawn_errLen : (s.drawn).errLen = s.errLen := rfl

@[simp] theorem State.drawn_errPos : (s.drawn).errPos = s.errPos := rfl

@[simp] theorem State.drawn_errSym : (s.drawn).errSym = s.errSym := rfl

@[simp] theorem State.drawn_errOp : (s.drawn).errOp = s.errOp := rfl

@[simp] theorem State.drawn_owned : (s.drawn).owned = s.owned := rfl

@[simp] theorem State.drawn_outq : (s.drawn).outq = s.outq := rfl

@[simp] theorem State.drawn_trace : (s.drawn).trace = s.trace := rfl

@[simp] theorem State.drawn_dir : (s.drawn).dir = s.dir := rfl

@[simp] theorem State.drawn_line : (s.drawn).line = s.line := rfl

@[simp] theorem State.drawn_cfg : (s.drawn).cfg = s.cfg := rfl

@[simp] theorem State.drawn_inputs : (s.drawn).inputs = s.inputs := rfl

@[simp] theorem State.drawn_answers : (s.drawn).answers = s.answers := rfl

@[simp] theorem State.drawn_draws : (s.drawn).draws = s.draws + 1 := rfl

/-! ### `complete` -/

@[simp] theorem State.complete_seqState (w : SinkWord) (a : Answer) :
    (s.complete w a).seqState = s.seqState := rfl

@[simp] theorem State.complete_rep (w : SinkWord) (a : Answer) : (s.complete w a).rep = s.rep := rfl

@[simp] theorem State.complete_bit (w : SinkWord) (a : Answer) : (s.complete w a).bit = s.bit := rfl

@[simp] theorem State.complete_half (w : SinkWord) (a : Answer) : (s.complete w a).half = s.half := rfl

@[simp] theorem State.complete_sender (w : SinkWord) (a : Answer) : (s.complete w a).sender = s.sender := rfl

@[simp] theorem State.complete_group (w : SinkWord) (a : Answer) : (s.complete w a).group = s.group := rfl

@[simp] theorem State.complete_onOff (w : SinkWord) (a : Answer) : (s.complete w a).onOff = s.onOff := rfl

@[simp] theorem State.complete_recip (w : SinkWord) (a : Answer) : (s.complete w a).recip = s.recip := rfl

@[simp] theorem State.complete_profile (w : SinkWord) (a : Answer) :
    (s.complete w a).profile = s.profile := rfl

@[simp] theorem State.complete_cmd (w : SinkWord) (a : Answer) : (s.complete w a).cmd = s.cmd := rfl

@[simp] theorem State.complete_err (w : SinkWord) (a : Answer) : (s.complete w a).err = s.err := rfl

@[simp] theorem State.complete_errField (w : SinkWord) (a : Answer) :
    (s.complete w a).errField = s.errField := rfl

@[simp] theorem State.complete_errLen (w : SinkWord) (a : Answer) : (s.complete w a).errLen = s.errLen := rfl

@[simp] theorem State.complete_errPos (w : SinkWord) (a : Answer) : (s.complete w a).errPos = s.errPos := rfl

@[simp] theorem State.complete_errSym (w : SinkWord) (a : Answer) : (s.complete w a).errSym = s.errSym := rfl

@[simp] theorem State.complete_errOp (w : SinkWord) (a : Answer) : (s.complete w a).errOp = s.errOp := rfl

@[simp] theorem State.complete_owned (w : SinkWord) (a : Answer) : (s.complete w a).owned = s.owned := rfl

@[simp] theorem State.complete_outq (w : SinkWord) (a : Answer) : (s.complete w a).outq = s.outq.tail := rfl

@[simp] theorem State.complete_trace (w : SinkWord) (a : Answer) :
    (s.complete w a).trace = s.trace ++ [(w, a)] := rfl

@[simp] theorem State.complete_dir (w : SinkWord) (a : Answer) : (s.complete w a).dir = s.dir := rfl

@[simp] theorem State.complete_line (w : SinkWord) (a : Answer) : (s.complete w a).line = s.line := rfl

@[simp] theorem State.complete_cfg (w : SinkWord) (a : Answer) : (s.complete w a).cfg = s.cfg := rfl

@[simp] theorem State.complete_inputs (w : SinkWord) (a : Answer) : (s.complete w a).inputs = s.inputs := rfl

@[simp] theorem State.complete_answers (w : SinkWord) (a : Answer) :
    (s.complete w a).answers = s.answers := rfl

@[simp] theorem State.complete_draws (w : SinkWord) (a : Answer) : (s.complete w a).draws = s.draws := rfl

end

end Sys2Proof.Machine
end

