-- ==== Sys2Proof/Laws/Moves.lean ====
section
/-! SUPPORT. Laws/Moves.lean: everything a shared operation, a sink step and one step of the machine can
do. Later proofs cite these and do not unfold the step. -/

namespace Sys2Proof.Machine

/-! ### Recording an error -/

/-- First error wins (R224). -/
theorem State.record_of_err {s : State} (h : s.err ≠ .none) (e : ErrEvent) : s.record e = s := by
  simp [State.record, h]

theorem State.record_of_none {s : State} (h : s.err = .none) (e : ErrEvent) :
    s.record e =
      match e with
      | .validationError f n => { s with err := .rejected, errField := f, errLen := n }
      | .protocolDefect p c => { s with err := .defect, errPos := BitVec.ofNat 5 p, errSym := c }
      | .sinkFailure w => { s with err := .sinkFail, errOp := w } := by
  cases e <;> simp [State.record, h]

/-- Recording writes only the status registers. -/
theorem State.record_status_only (s : State) (e : ErrEvent) :
    ∃ c f n p y w, s.record e =
      { s with err := c, errField := f, errLen := n, errPos := p, errSym := y, errOp := w } := by
  unfold State.record
  split
  · cases e <;> exact ⟨_, _, _, _, _, _, rfl⟩
  · exact ⟨s.err, s.errField, s.errLen, s.errPos, s.errSym, s.errOp, rfl⟩

/-! ### Sink operations -/

/-- What an operation does at the PulseSink: it writes only `DIR`, `LINE` and the count of draws. -/
def PinOnly (perform : Answer → State → State) : Prop :=
  ∀ a s, ∃ d l n, perform a s = { s with dir := d, line := l, draws := n }

theorem performConfigure_pinOnly : PinOnly performConfigure := fun _ _ => ⟨_, _, _, rfl⟩

theorem performSetLevel_pinOnly (l : Level) : PinOnly (performSetLevel l) := by
  intro a s
  unfold performSetLevel
  split
  · exact ⟨s.dir, l.toLine, s.draws, rfl⟩
  · exact ⟨s.dir, _, _, rfl⟩

theorem performHoldFor_pinOnly (d : Duration) : PinOnly (performHoldFor d) :=
  fun _ s => ⟨s.dir, s.line, s.draws, rfl⟩

theorem performRelease_pinOnly : PinOnly performRelease := by
  intro a s
  unfold performRelease
  split
  · exact ⟨_, _, s.draws, rfl⟩
  · exact ⟨_, _, _, rfl⟩

/-- The state after the PulseSink has answered `a` to the head `w` of `OUTQ`, `q` being the rest (R206,
R223, R227). -/
def State.answered (s : State) (w : SinkWord) (q : List SinkWord) (a : Answer) (rest : List Answer)
    (d : Dir) (l : Line) (n : Nat) : State :=
  let t : State :=
    { s with
      answers := rest, dir := d, line := l, draws := n, trace := s.trace ++ [(w, a)], outq := q }
  match a with
  | .ok => t
  | .fail => t.raise (.sinkFailure w)

/-- A sink step waits for an answer or completes the head of `OUTQ`. -/
theorem sinkStep_cases {w : SinkWord} {perform : Answer → State → State} {s t : State}
    (hp : PinOnly perform) (h : sinkStep w perform s = .next t) :
    (s.answers = [] ∧ t = s) ∨
      ∃ a rest d l n, s.answers = a :: rest ∧ t = s.answered w s.outq.tail a rest d l n := by
  unfold sinkStep at h
  split at h
  · exact .inl ⟨‹_›, (Host.Outcome.next.inj h).symm⟩
  · rename_i rest ha
    obtain ⟨d, l, n, hd⟩ := hp .ok { s with answers := rest }
    refine .inr ⟨.ok, rest, d, l, n, ha, ?_⟩
    rw [hd] at h
    exact (Host.Outcome.next.inj h).symm
  · rename_i rest ha
    obtain ⟨d, l, n, hd⟩ := hp .fail { s with answers := rest }
    refine .inr ⟨.fail, rest, d, l, n, ha, ?_⟩
    rw [hd] at h
    exact (Host.Outcome.next.inj h).symm

/-- A sink step always answers a next state. -/
theorem sinkStep_total (w : SinkWord) (perform : Answer → State → State) (s : State) :
    ∃ t, sinkStep w perform s = .next t := by
  unfold sinkStep
  split <;> exact ⟨_, rfl⟩

/-- The instruction of a legal sink word runs as the sink step of that word. -/
theorem exec_sink {w : SinkWord} {i : Instr} (h : decodeSink36 w = .ok i) :
    ∃ perform, PinOnly perform ∧ ∀ s, exec i s = sinkStep w perform s := by
  obtain ⟨rfl, rfl⟩ | ⟨l, rfl, rfl⟩ | ⟨d, rfl, rfl⟩ | ⟨rfl, rfl⟩ := decodeSink36_cases h
  · exact ⟨_, performConfigure_pinOnly, fun _ => rfl⟩
  · exact ⟨_, performSetLevel_pinOnly l, fun _ => rfl⟩
  · exact ⟨_, performHoldFor_pinOnly d, fun _ => rfl⟩
  · exact ⟨_, performRelease_pinOnly, fun _ => rfl⟩

/-! ### One move of the block -/

/-- The block's own move: the PulseSink owes an answer; or it answers; or the sequencer runs its state. -/
theorem blockMove_cases {s t : State} (h : blockMove s = .next t) :
    (∃ w q, s.outq = w :: q ∧ s.answers = [] ∧ t = s) ∨
      (∃ w q a rest d l n, s.outq = w :: q ∧ legalWord w = true ∧ s.answers = a :: rest ∧
        t = s.answered w q a rest d l n) ∨
      (s.outq = [] ∧ exec s.seqState.instr s = .next t) := by
  unfold blockMove State.fetch at h
  split at h
  · rename_i i hf
    split at hf
    · rename_i w q ho
      split at hf
      · rename_i j hj
        cases hf
        obtain ⟨perform, hp, he⟩ := exec_sink hj
        rw [he] at h
        rcases sinkStep_cases hp h with ⟨ha, rfl⟩ | ⟨a, rest, d, l, n, ha, rfl⟩
        · exact .inl ⟨w, q, ho, ha, rfl⟩
        · refine .inr (.inl ⟨w, q, a, rest, d, l, n, ho, ?_, ha, ?_⟩)
          · simp [legalWord, hj]
          · rw [ho]; rfl
      · cases hf
    · rename_i ho
      cases hf
      rw [decodeSeqState4_code] at h
      exact .inr (.inr ⟨ho, h⟩)
  · cases h

/-! ### Internal steps of the sequencer -/

/-- Raising writes the status registers, `SEQ_STATE` and, for a sink failure, `OUTQ`; nothing else. -/
theorem State.raise_frame (s : State) (e : ErrEvent) :
    ∃ c f n p y w q o, s.raise e =
      { s with
        err := c, errField := f, errLen := n, errPos := p, errSym := y, errOp := w, seqState := q,
        outq := o } := by
  obtain ⟨c, f, n, p, y, w, h⟩ := s.record_status_only e
  unfold State.raise State.divert
  rw [h]
  cases e <;> exact ⟨_, _, _, _, _, _, _, _, rfl⟩

/-- What no internal step outside `IDLE` writes: the request registers, the trace, the PulseSink, the
configuration and the environment (R21). -/
structure InternalFrame (s t : State) : Prop where
  sender : t.sender = s.sender
  group : t.group = s.group
  onOff : t.onOff = s.onOff
  recip : t.recip = s.recip
  profile : t.profile = s.profile
  trace : t.trace = s.trace
  dir : t.dir = s.dir
  line : t.line = s.line
  cfg : t.cfg = s.cfg
  inputs : t.inputs = s.inputs
  answers : t.answers = s.answers

theorem internalFrame_bitHighOn (c : Symbol) (s : State) : InternalFrame s (bitHighOn c s) := by
  unfold bitHighOn
  split
  · obtain ⟨_, _, _, _, _, _, _, _, h⟩ := s.raise_frame (.protocolDefect s.bit c)
    rw [h]
    constructor <;> rfl
  · constructor <;> rfl

theorem internalFrame_bitLowOn (c : Symbol) (s : State) : InternalFrame s (bitLowOn c s) := by
  unfold bitLowOn advanceBit lowHoldOf
  split <;> split <;> constructor <;> rfl

/-- The frame of every internal step outside `IDLE`. -/
theorem internal_frame {q : SeqState} {s t : State} (h : exec q.instr s = .next t)
    (hq : q ≠ .idle) : InternalFrame s t := by
  cases q <;> simp only [SeqState.instr, exec] at h
  case idle => exact absurd rfl hq
  case validating =>
    unfold execValidating at h
    split at h
    · rename_i f n _
      obtain ⟨_, _, _, _, _, _, _, _, hr⟩ := s.raise_frame (.validationError f n)
      rw [hr] at h
      unfold State.releaseIfConfigured at h
      split at h <;> cases h <;> constructor <;> rfl
    · cases h; constructor <;> rfl
  case bitHigh =>
    unfold execBitHigh at h
    split at h <;> cases h
    exact internalFrame_bitHighOn _ _
  case bitLow =>
    unfold execBitLow at h
    split at h <;> cases h
    exact internalFrame_bitLowOn _ _
  all_goals cases h; constructor <;> rfl

/-- In `IDLE` with no request at the port, the block waits (R170). -/
theorem exec_idle_waits {s : State} (h : ∀ r rest, s.inputs ≠ .request r :: rest) :
    exec .idle s = .next s := by
  show execIdle s = .next s
  unfold execIdle
  split
  · exact absurd ‹_› (h _ _)
  · rfl

/-! ### Reset -/

/-- An operation still in flight at reset touches only the pin (R251). -/
theorem performInFlight_pinOnly (w : SinkWord) : PinOnly (performInFlight w) := by
  intro a s
  unfold performInFlight
  generalize decodeSink36 w = r
  cases r with
  | error e => exact ⟨s.dir, s.line, s.draws, rfl⟩
  | ok i =>
    cases i
    case configure => exact performConfigure_pinOnly a s
    case setLevel l => exact performSetLevel_pinOnly l a s
    case holdFor d => exact performHoldFor_pinOnly d a s
    case release => exact performRelease_pinOnly a s
    all_goals exact ⟨s.dir, s.line, s.draws, rfl⟩

theorem State.settleInFlight_pinOnly (s : State) (f : Option Answer) :
    ∃ d l n, s.settleInFlight f = { s with dir := d, line := l, draws := n } := by
  unfold State.settleInFlight
  split
  · exact performInFlight_pinOnly _ _ s
  · exact ⟨s.dir, s.line, s.draws, rfl⟩

/-- Reset gives every register of the block its value of R41 (R250). -/
theorem State.applyReset_eq (s : State) (f : Option Answer) :
    ∃ d l n, s.applyReset f =
      { State.reset with
        dir := d, line := l, cfg := s.cfg, inputs := s.inputs, answers := s.answers, draws := n } := by
  obtain ⟨d, l, n, h⟩ := s.settleInFlight_pinOnly f
  refine ⟨d, l, n, ?_⟩
  simp only [State.applyReset, h]

/-! ### One step -/

/-- A move of the block while the environment sends nothing leaves the environment's moves alone. -/
theorem blockMove_inputs {s t : State} (h : blockMove s = .next t)
    (hi : ∀ r rest, s.inputs ≠ .request r :: rest) : t.inputs = s.inputs := by
  rcases blockMove_cases h with ⟨w, q, -, -, rfl⟩ | ⟨w, q, a, rest, d, l, n, -, -, -, rfl⟩ | ⟨-, he⟩
  · rfl
  · cases a
    · rfl
    · obtain ⟨_, _, _, _, _, _, _, _, hr⟩ := State.raise_frame
        { s with
          answers := rest, dir := d, line := l, draws := n, trace := s.trace ++ [(w, .fail)],
          outq := q } (.sinkFailure w)
      simp only [State.answered, hr]
  · by_cases hq : s.seqState = .idle
    · rw [hq, SeqState.instr, exec_idle_waits hi] at he
      cases he; rfl
    · exact (internal_frame he hq).inputs

/-- One step of the machine, by who moves (R6, R250, R170, R171, R208). -/
theorem step_cases {s t : State} (h : step s = .next t) :
    (∃ f rest, s.inputs = .reset f :: rest ∧ t = State.applyReset { s with inputs := rest } f) ∨
      (∃ r rest, s.inputs = .request r :: rest ∧ s.seqState = .idle ∧
        t = State.latch { s with inputs := rest } r) ∨
      (∃ m rest, s.inputs = m :: rest ∧ t = { s with inputs := rest } ∧
        ((∃ r, m = .request r ∧ s.seqState ≠ .idle) ∨ ∃ r, m = .read r)) ∨
      (∃ d l rest, s.inputs = .touchPin d l :: rest ∧
        t = { s with inputs := rest, dir := d, line := l }) ∨
      (∃ u rest, (s.inputs = [] ∧ rest = [] ∨ s.inputs = .wait :: rest) ∧ blockMove s = .next u ∧
        t = { u with inputs := rest }) := by
  unfold step nextMove at h
  split at h
  · rename_i f rest hi
    exact .inl ⟨f, rest, hi, (Host.Outcome.next.inj h).symm⟩
  · rename_i r rest hi
    split at h
    · rename_i hr
      refine .inr (.inl ⟨r, rest, hi, by simpa [State.ready] using hr, ?_⟩)
      simp only [exec, execIdle, hi] at h
      exact (Host.Outcome.next.inj h).symm
    · rename_i hr
      exact .inr (.inr (.inl ⟨_, rest, hi, (Host.Outcome.next.inj h).symm,
        .inl ⟨r, rfl, by simpa [State.ready] using hr⟩⟩))
  · rename_i r rest hi
    split at h
    · exact .inr (.inr (.inl ⟨_, rest, hi, (Host.Outcome.next.inj h).symm, .inr ⟨r, rfl⟩⟩))
    · cases h
  · rename_i d l rest hi
    exact .inr (.inr (.inr (.inl ⟨d, l, rest, hi, (Host.Outcome.next.inj h).symm⟩)))
  · rename_i rest hi
    cases hb : blockMove s with
    | next u =>
      rw [hb] at h
      exact .inr (.inr (.inr (.inr ⟨u, rest, .inr hi, rfl, (Host.Outcome.next.inj h).symm⟩)))
    | fault f => rw [hb] at h; cases h
    | refused r => rw [hb] at h; cases h
  · rename_i hi
    refine .inr (.inr (.inr (.inr ⟨t, [], .inl ⟨hi, rfl⟩, h, ?_⟩)))
    have ht : t.inputs = [] := by
      rw [blockMove_inputs h (by simp [hi]), hi]
    rw [← ht]

end Sys2Proof.Machine
end

