-- ==== Sys2Proof/Laws/PerInstr.lean ====
section
/-! SUPPORT. Laws/PerInstr.lean: for every constructor of Instr, the word the encoder writes lies in the
row of the opcode table that the constructor stands for (R103). -/

namespace Sys2Proof.Laws.Row

open Sys2Proof

/-- The bits of the encoded word under the row's mask are the row's pattern. -/
def Statement (i : Instr) : Prop := (encode i).value &&& (opcodeRow i).mask = (opcodeRow i).pattern

theorem configure : Statement .configure := by unfold Statement; decide

theorem setLevel (l : Level) : Statement (.setLevel l) := by unfold Statement; cases l <;> decide

theorem holdFor (d : Duration) : Statement (.holdFor d) := by
  have hd := d.isLt
  show (holdForWord d).toNat &&& 0xF00000000 = 0x800000000
  rw [holdForWord_toNat]
  apply Nat.eq_of_testBit_eq
  intro i
  rw [Nat.testBit_and, show (0x800000000 : Nat) = 8 * 2 ^ 32 from rfl,
    show (0xF00000000 : Nat) = 15 * 2 ^ 32 from rfl, Nat.mul_comm 8, Nat.mul_comm 15,
    Nat.testBit_two_pow_mul_add _ hd, Nat.testBit_two_pow_mul, Nat.testBit_two_pow_mul]
  by_cases h : i < 32
  · simp [h, Nat.not_le.mpr h]
  · have h8 : ∀ j, Nat.testBit 8 j = true → Nat.testBit 15 j = true := by
      intro j hj
      have h15 : Nat.testBit (15 &&& 8) j = true := hj
      rw [Nat.testBit_and] at h15
      exact (Bool.and_eq_true_iff.mp h15).1
    cases hb : Nat.testBit 8 (i - 32)
    · simp [h]
    · simp [h, h8 _ hb, Nat.not_lt.mp h]

theorem release : Statement .release := by unfold Statement; decide

theorem symZero : Statement .symZero := by unfold Statement; decide

theorem symOne : Statement .symOne := by unfold Statement; decide

theorem symInvalid (c : Symbol) : Statement (.symInvalid c) := by
  simp [Statement, opcodeRow]

theorem idle : Statement .idle := by unfold Statement; decide

theorem validating : Statement .validating := by unfold Statement; decide

theorem rejected : Statement .rejected := by unfold Statement; decide

theorem encoding : Statement .encoding := by unfold Statement; decide

theorem acquire : Statement .acquire := by unfold Statement; decide

theorem preSilence : Statement .preSilence := by unfold Statement; decide

theorem agc1 : Statement .agc1 := by unfold Statement; decide

theorem agc2 : Statement .agc2 := by unfold Statement; decide

theorem bitHigh : Statement .bitHigh := by unfold Statement; decide

theorem bitLow : Statement .bitLow := by unfold Statement; decide

theorem close : Statement .close := by unfold Statement; decide

theorem silence : Statement .silence := by unfold Statement; decide

theorem abort : Statement .abort := by unfold Statement; decide

theorem cleanupLow : Statement .cleanupLow := by unfold Statement; decide

theorem cleanupRelease : Statement .cleanupRelease := by unfold Statement; decide

theorem done : Statement .done := by unfold Statement; decide

end Sys2Proof.Laws.Row
end

