-- ==== Sys2Proof/Laws/Steps.lean ====
section
/-! SUPPORT. Laws/Steps.lean: symbols, field lengths, error events and the bit loop, each in the form
later proofs cite. -/

namespace Sys2Proof.Machine

/-! ### Symbols (R82, R90) -/

/-- The two valid symbols. -/
theorem validSymbol_iff (c : Symbol) : validSymbol c = true ↔ c = 0x30#8 ∨ c = 0x31#8 := by
  simp [validSymbol, isZero, isOne]

theorem bitval_of_valid {c : Symbol} (h : validSymbol c = true) : bitval c = some (isOne c) := by
  rcases (validSymbol_iff c).mp h with rfl | rfl <;> rfl

theorem bitval_of_invalid {c : Symbol} (h : validSymbol c = false) : bitval c = none := by
  simp only [validSymbol, Bool.or_eq_false_iff] at h
  simp [bitval, h.1, h.2]

theorem wire_of_valid {c : Symbol} (h : validSymbol c = true) (x : Bool) :
    wire c x = some (isOne c ^^ x) := by
  simp [wire, bitval_of_valid h]

theorem wire_of_invalid {c : Symbol} (h : validSymbol c = false) (x : Bool) : wire c x = none := by
  simp [wire, bitval_of_invalid h]

/-! ### Field lengths (R120 to R122) -/

/-- The first wrong field depends on the request registers only. -/
theorem State.firstWrongField_congr {s t : State} (h1 : t.sender = s.sender)
    (h2 : t.group = s.group) (h3 : t.onOff = s.onOff) (h4 : t.recip = s.recip) :
    t.firstWrongField = s.firstWrongField := by
  have h : t.wrongLength = s.wrongLength := by
    funext f
    simp only [State.wrongLength]
    cases f <;> simp only [State.field, h1, h2, h3, h4] <;> rfl
  simp [State.firstWrongField, h]

theorem State.wrongLength_eq_none (s : State) (f : Field) :
    s.wrongLength f = none ↔ (s.field f).length = expectedLength f := by
  unfold State.wrongLength
  split <;> simp [*]

/-- No field is wrong exactly when the lengths are 26, 1, 1 and 4. -/
theorem State.firstWrongField_eq_none (s : State) :
    s.firstWrongField = none ↔
      s.sender.length = 26 ∧ s.group.length = 1 ∧ s.onOff.length = 1 ∧ s.recip.length = 4 := by
  simp [State.firstWrongField, checkOrder, List.findSome?_eq_none_iff, State.wrongLength_eq_none,
    State.field, expectedLength]

/-! ### Error events -/

/-- A sink failure, as one record update (R223, R224, R227). -/
theorem State.raise_sinkFailure (s : State) (w : SinkWord) :
    s.raise (.sinkFailure w) = specFailure s w := by
  unfold State.raise State.record State.divert specFailure
  cases hs : s.seqState <;> cases he : s.err <;> simp [SeqState.staysOnFailure, hs, he]

/-- The first defect of a session (R222). -/
theorem State.raise_defect {s : State} (h : s.err = .none) (p : Nat) (c : Symbol) :
    s.raise (.protocolDefect p c) =
      { s with err := .defect, errPos := BitVec.ofNat 5 p, errSym := c, seqState := .abort } := by
  simp [State.raise, State.record_of_none h, State.divert, State.goTo]

/-- The first validation error of a session (R221). -/
theorem State.raise_validation {s : State} (h : s.err = .none) (f : Field) (n : Nat) :
    s.raise (.validationError f n) =
      { s with err := .rejected, errField := f, errLen := n, seqState := .rejected } := by
  simp [State.raise, State.record_of_none h, State.divert, State.goTo]

/-- An answer of the PulseSink as the statements write it. -/
theorem State.answered_eq {s : State} {w : SinkWord} {q : List SinkWord} (h : s.outq = w :: q)
    (a : Answer) (rest : List Answer) (d : Dir) (l : Line) (n : Nat) :
    s.answered w q a rest d l n = specAnswered s w a rest d l n := by
  cases a
  · simp [State.answered, specAnswered, h]
  · simp only [State.answered, State.raise_sinkFailure, specAnswered, h, List.tail]

/-! ### The bit loop (R143, R144) -/

/-- `BIT_HIGH` at the first wire bit of an invalid symbol. -/
theorem bitHighOn_of_invalid {c : Symbol} {s : State} (hh : s.half = false)
    (hc : validSymbol c = false) : bitHighOn c s = s.raise (.protocolDefect s.bit c) := by
  simp [bitHighOn, hh, hc]

/-- `BIT_HIGH` at the second wire bit, or of a valid symbol. -/
theorem bitHighOn_of_ok {c : Symbol} {s : State} (h : s.half = true ∨ validSymbol c = true) :
    bitHighOn c s = (s.pulse .high s.profile.tHigh).goTo .bitLow := by
  unfold bitHighOn
  rw [if_neg]
  rcases h with h | h <;> simp [h]

theorem advanceBit_of_first {s : State} (h : s.half = false) :
    advanceBit s = { s with half := true, seqState := .bitHigh } := by
  unfold advanceBit
  rw [if_pos h]
  rfl

theorem advanceBit_of_second {s : State} (h : s.half = true) :
    advanceBit s =
      { s with
        half := false, bit := s.bit + 1,
        seqState := if s.bit + 1 = 32 then .close else .bitHigh } := by
  unfold advanceBit
  rw [if_neg (by simp [h])]
  rfl

/-- `BIT_LOW` of the first wire bit of a valid symbol. -/
theorem bitLowOn_of_first {c : Symbol} {s : State} (hc : validSymbol c = true)
    (hh : s.half = false) :
    bitLowOn c s =
      { s.pulse .low (s.profile.lowdur (isOne c)) with half := true, seqState := .bitHigh } := by
  have hl : lowHoldOf c s = emitLowHold (isOne c) s := by
    simp [lowHoldOf, wire_of_valid hc, hh]
  rw [bitLowOn, hl, advanceBit_of_first (by exact hh)]
  rfl

/-- `BIT_LOW` of the second wire bit of a valid symbol. -/
theorem bitLowOn_of_second {c : Symbol} {s : State} (hc : validSymbol c = true)
    (hh : s.half = true) :
    bitLowOn c s =
      { s.pulse .low (s.profile.lowdur (!isOne c)) with
        half := false, bit := s.bit + 1,
        seqState := if s.bit + 1 = 32 then .close else .bitHigh } := by
  have hl : lowHoldOf c s = emitLowHold (!isOne c) s := by
    simp [lowHoldOf, wire_of_valid hc, hh]
  rw [bitLowOn, hl, advanceBit_of_second (by exact hh)]
  rfl

end Sys2Proof.Machine
end

