-- ==== Sys2Proof/Laws/Runs.lean ====
section
/-! SUPPORT. Laws/Runs.lean: runs of the machine, step by step, and the premises of R252 along a run. -/

namespace Sys2Proof.Machine

@[simp] theorem run_zero (s : State) : Sys2Proof.core.run 0 s = .next s := rfl

/-- A run of any core whose first step goes on. -/
theorem coreRun_succ_of_next (M : Host.Core) {s u : M.State} (h : M.step s = .next u) (k : Nat) :
    M.run (k + 1) s = M.run k u := by
  simp only [Host.Core.run, h]

theorem coreRun_succ_cases (M : Host.Core) {s t : M.State} {k : Nat}
    (h : M.run (k + 1) s = .next t) : ∃ u, M.step s = .next u ∧ M.run k u = .next t := by
  simp only [Host.Core.run] at h
  split at h
  · exact ⟨_, ‹_›, h⟩
  · cases h
  · cases h

theorem run_succ_of_next {s u : State} (h : step s = .next u) (k : Nat) :
    Sys2Proof.core.run (k + 1) s = Sys2Proof.core.run k u :=
  coreRun_succ_of_next Sys2Proof.core h k

/-- A run that goes on after one step took a step that goes on. -/
theorem run_succ_cases {s t : State} {k : Nat} (h : Sys2Proof.core.run (k + 1) s = .next t) :
    ∃ u, step s = .next u ∧ Sys2Proof.core.run k u = .next t :=
  coreRun_succ_cases Sys2Proof.core h

/-- Runs follow one another. -/
theorem run_add {s u : State} {k : Nat} (h : Sys2Proof.core.run k s = .next u) (m : Nat) :
    Sys2Proof.core.run (k + m) s = Sys2Proof.core.run m u := by
  induction k generalizing s with
  | zero => cases h; rw [Nat.zero_add]
  | succ k ih =>
    obtain ⟨v, hv, hr⟩ := run_succ_cases h
    rw [Nat.succ_add, run_succ_of_next hv, ih hr]

/-- What every step keeps, every run keeps. -/
theorem run_induction {P : State → Prop} (hstep : ∀ s t : State, P s → step s = .next t → P t) :
    ∀ (k : Nat) (s t : State), P s → Sys2Proof.core.run k s = .next t → P t := by
  intro k
  induction k with
  | zero => intro s t h hx; cases hx; exact h
  | succ k ih =>
    intro s t h hx
    obtain ⟨u, hu, hr⟩ := run_succ_cases hx
    exact ih u t (hstep s u h hu) hr

/-! ### Premises along a run (R252) -/

/-- Every request meets `ProfileChosen`. -/
theorem profileChosen (r : Request) : ProfileChosen r :=
  ⟨⟨.explicit r.profile, rfl⟩, fun d _ => d.isLt⟩

theorem SinkAnswers.step {s u : State} (h : SinkAnswers s) (hs : step s = .next u) :
    SinkAnswers u :=
  fun k t hr => h (k + 1) t (by rw [run_succ_of_next hs, hr])

theorem Exclusive.step {s u : State} (h : Exclusive s) (hs : step s = .next u) : Exclusive u :=
  fun k t hr => h (k + 1) t (by rw [run_succ_of_next hs, hr])

theorem NoResetMidSession.step {s u : State} (h : NoResetMidSession s) (hs : step s = .next u) :
    NoResetMidSession u :=
  fun k t hr => h (k + 1) t (by rw [run_succ_of_next hs, hr])

/-- A state that steps to itself is where its runs stay. -/
theorem run_of_fixed {s : State} (h : step s = .next s) (k : Nat) :
    Sys2Proof.core.run k s = .next s := by
  induction k with
  | zero => rfl
  | succ k ih => rw [run_succ_of_next h, ih]

/-- What holds of a state that steps to itself holds all along its run. -/
theorem run_forall_of_fixed {P : State → Prop} {s : State} (hf : step s = .next s) (hp : P s)
    (k : Nat) (t : State) (hr : Sys2Proof.core.run k s = .next t) : P t := by
  rw [run_of_fixed hf] at hr
  cases hr
  exact hp

/-- What holds here and all along the run of the next state holds all along the run. -/
theorem run_forall_of_step {P : State → Prop} {s u : State} (hs : step s = .next u) (hp : P s)
    (hu : ∀ k t, Sys2Proof.core.run k u = .next t → P t) (k : Nat) (t : State)
    (hr : Sys2Proof.core.run k s = .next t) : P t := by
  cases k with
  | zero => cases hr; exact hp
  | succ k => rw [run_succ_of_next hs] at hr; exact hu k t hr

/-- A step takes the first input. -/
theorem step_inputs {s t : State} (h : step s = .next t) : t.inputs = s.inputs.tail := by
  rcases step_cases h with ⟨f, rest, hi, rfl⟩ | ⟨r, rest, hi, -, rfl⟩ | ⟨m, rest, hi, rfl, -⟩ |
      ⟨d, l, rest, hi, rfl⟩ | ⟨u, rest, ⟨hi, hr⟩ | hi, -, rfl⟩
  · obtain ⟨d, l, n, ha⟩ := State.applyReset_eq { s with inputs := rest } f
    rw [ha, hi]
    rfl
  · rw [hi]; rfl
  · rw [hi]; rfl
  · rw [hi]; rfl
  · rw [hi]; exact hr
  · rw [hi]; rfl

/-- Where no other agent touches the pin, `Exclusive` holds. -/
theorem exclusive_of_no_touch {s : State} (h : ∀ d l, EnvMove.touchPin d l ∉ s.inputs) :
    Exclusive s := by
  intro k t hr _
  have ht := run_induction (P := fun u => ∀ d l, EnvMove.touchPin d l ∉ u.inputs)
    (fun u v hu hs d l hm => hu d l (List.mem_of_mem_tail (step_inputs hs ▸ hm))) k s t h hr
  unfold touchNext
  split
  · rename_i d l rest hi
    exact absurd (hi ▸ List.mem_cons_self) (ht d l)
  · rfl

end Sys2Proof.Machine
end

