-- ==== Sys2Proof/Laws/Streams.lean ====
section
/-! SUPPORT. Laws/Streams.lean: the streams of Machine/Stream.lean in closed form: lengths, the bit loop
over a command, and nominal sums. -/

namespace Sys2Proof.Machine

/-! ### Lengths -/

@[simp] theorem pulseOps_length (l : Level) (d : Duration) : (pulseOps l d).length = 2 := rfl

@[simp] theorem lbitOps_length (p : TimingProfile) (b : Bool) : (lbitOps p b).length = 8 := rfl

@[simp] theorem preambleOps_length (p : TimingProfile) : (preambleOps p).length = 4 := rfl

@[simp] theorem trailerOps_length (p : TimingProfile) : (trailerOps p).length = 4 := rfl

@[simp] theorem presilOps_length (p : TimingProfile) : (presilOps p).length = 2 := rfl

theorem bitsOps_length (p : TimingProfile) (bits : List Bool) :
    (bits.flatMap (lbitOps p)).length = 8 * bits.length := by
  induction bits with
  | nil => rfl
  | cons b bs ih =>
    rw [List.flatMap_cons, List.length_append, ih, lbitOps_length, List.length_cons]
    omega

/-! ### The bit loop over a command (R145) -/

/-- The bits of valid symbols. -/
theorem commandBits_of_valid {cmd : SymString} (h : ∀ c ∈ cmd, validSymbol c = true) :
    commandBits cmd = some (cmd.map isOne) := by
  induction cmd with
  | nil => rfl
  | cons c cs ih =>
    have hc := bitval_of_valid (h c (by simp))
    have ht := ih fun x hx => h x (by simp [hx])
    rw [commandBits] at ht ⊢
    simp [List.mapM_cons, hc, ht]

/-- A command of valid symbols is sent whole. -/
theorem bitLoopOps_of_valid (p : TimingProfile) {cmd : SymString}
    (h : ∀ c ∈ cmd, validSymbol c = true) (pos : Nat) :
    bitLoopOps p pos cmd = ((cmd.map isOne).flatMap (lbitOps p), none) := by
  induction cmd generalizing pos with
  | nil => rfl
  | cons c cs ih =>
    have ht := ih (fun x hx => h x (by simp [hx])) (pos + 1)
    simp [bitLoopOps, bitval_of_valid (h c (by simp)), ht]

/-- The bit loop stops at the first invalid symbol: only the symbols before it are sent. -/
theorem bitLoopOps_of_defect (p : TimingProfile) {cmd : SymString} {k : Nat} {c : Symbol}
    (hk : cmd[k]? = some c) (hc : validSymbol c = false)
    (h : ∀ j b, j < k → cmd[j]? = some b → validSymbol b = true) (pos : Nat) :
    bitLoopOps p pos cmd =
      (((cmd.take k).map isOne).flatMap (lbitOps p), some (pos + k, c)) := by
  induction k generalizing cmd pos with
  | zero =>
    cases cmd with
    | nil => simp at hk
    | cons a cs =>
      simp only [List.getElem?_cons_zero, Option.some.injEq] at hk
      subst hk
      simp [bitLoopOps, bitval_of_invalid hc]
  | succ k ih =>
    cases cmd with
    | nil => simp at hk
    | cons a cs =>
      have ha := h 0 a (by omega) rfl
      have ht := ih (cmd := cs) (by simpa using hk)
        (fun j b hj hb => h (j + 1) b (by omega) (by simpa using hb)) (pos + 1)
      simp only [bitLoopOps, bitval_of_valid ha, ht, List.take_succ_cons, List.map_cons,
        List.flatMap_cons]
      rw [show pos + 1 + k = pos + (k + 1) by omega]

/-- `n` repetitions of a command of valid symbols. -/
theorem repetitionOps_of_valid (p : TimingProfile) {cmd : SymString}
    (h : ∀ c ∈ cmd, validSymbol c = true) (n : Nat) :
    repetitionOps p cmd n =
      ((List.replicate n (frameOps p (cmd.map isOne))).flatten ++ [setLevelWord .low, releaseWord],
        .ok) := by
  induction n with
  | zero => rfl
  | succ n ih =>
    simp only [repetitionOps, bitLoopOps_of_valid p h, ih, frameOps, List.replicate_succ,
      List.flatten_cons, List.append_assoc]

/-- The first repetition of a command with an invalid symbol is the last. -/
theorem repetitionOps_of_defect (p : TimingProfile) {cmd : SymString} {k : Nat} {c : Symbol}
    (hk : cmd[k]? = some c) (hc : validSymbol c = false)
    (h : ∀ j b, j < k → cmd[j]? = some b → validSymbol b = true) (n : Nat) :
    repetitionOps p cmd (n + 1) =
      (preambleOps p ++ ((cmd.take k).map isOne).flatMap (lbitOps p) ++
        [setLevelWord .low, setLevelWord .low, releaseWord], .defect k c) := by
  simp only [repetitionOps, bitLoopOps_of_defect p hk hc h, Nat.zero_add]

/-! ### Request lengths -/

/-- A request with no wrong field has a command of 32 symbols (R84, R126). -/
theorem Request.command_length {r : Request} (h : r.firstWrongField = none) :
    r.command.length = 32 := by
  have hf : ∀ f, f ∈ checkOrder → (r.field f).length = expectedLength f := by
    intro f hm
    have := List.findSome?_eq_none_iff.mp h f hm
    by_contra hne
    simp [hne] at this
  have h1 := hf .sender (by simp [checkOrder])
  have h2 := hf .group (by simp [checkOrder])
  have h3 := hf .onOff (by simp [checkOrder])
  have h4 := hf .recipient (by simp [checkOrder])
  simp only [Request.field, expectedLength] at h1 h2 h3 h4
  simp [Request.command, h1, h2, h3, h4]

/-! ### Nominal sums (R256) -/

@[simp] theorem nominalSum_append (a b : List SinkWord) :
    nominalSum (a ++ b) = nominalSum a + nominalSum b := by
  simp [nominalSum]

@[simp] theorem nominalSum_pulse (l : Level) (d : Duration) : nominalSum (pulseOps l d) = d.toNat := by
  cases l <;> simp [nominalSum, pulseOps, nominalOf]

/-- Both bits last equally long (R257). -/
theorem nominalSum_lbit (p : TimingProfile) (b : Bool) : nominalSum (lbitOps p b) = bitNominal p := by
  cases b <;> simp [lbitOps, wireOps, TimingProfile.lowdur, bitNominal] <;> omega

theorem nominalSum_bits (p : TimingProfile) (bits : List Bool) :
    nominalSum (bits.flatMap (lbitOps p)) = bits.length * bitNominal p := by
  induction bits with
  | nil => simp [nominalSum]
  | cons b bs ih =>
    rw [List.flatMap_cons, nominalSum_append, ih, nominalSum_lbit, List.length_cons, Nat.succ_mul]
    omega

/-! ### Holds without their duration, and PulseEvent counts (R86, R151) -/

theorem holdFor_op (d : Duration) : (holdForWord d).extractLsb' 34 2 = 0b10#2 :=
  sinkOp_sinkWord 0b10#2 0b0#1 d

@[simp] theorem eraseDuration_holdFor (d : Duration) :
    eraseDuration (holdForWord d) = 0x800000000#36 := by
  simp [eraseDuration, holdFor_op]

@[simp] theorem pulseEventCount_append (a b : List SinkWord) :
    pulseEventCount (a ++ b) = pulseEventCount a + pulseEventCount b := by
  simp [pulseEventCount]

@[simp] theorem pulseEventCount_pulse (l : Level) (d : Duration) :
    pulseEventCount (pulseOps l d) = 1 := by
  cases l <;> simp [pulseEventCount, pulseOps, holdFor_op]

theorem pulseEventCount_bits (p : TimingProfile) (bits : List Bool) :
    pulseEventCount (bits.flatMap (lbitOps p)) = 4 * bits.length := by
  induction bits with
  | nil => rfl
  | cons b bs ih =>
    rw [List.flatMap_cons, pulseEventCount_append, ih, List.length_cons]
    simp only [lbitOps, wireOps, pulseEventCount_append, pulseEventCount_pulse]
    omega

end Sys2Proof.Machine
end

