-- ==== Sys2Proof/Tests/Slice0.lean ====
section
/-! SUPPORT. Tests/Slice0.lean: small tests. Expected values are those of spec/95_test_vectors.md
(tables named in the comments), of the encodings R81, R93 and R95, or of the rule named; none comes
from the model. -/

namespace Sys2Proof.Tests

open Sys2Proof Sys2Proof.Machine

/-! ### Helpers -/

/-- The test profile `TP_T` (95, section 0). -/
def tpT : TimingProfile :=
  { tAgc1 := 11, tAgc2 := 22, tSil := 99, tHigh := 3, tLow0 := 5, tLow1 := 7, preSil := false }

/-- `TP_T` with `PRE_SIL = 1`. -/
def tpT1 : TimingProfile := { tpT with preSil := true }

/-- `n` symbols `0`. -/
def zeros (n : Nat) : SymString := List.replicate n 0x30#8

/-- The command of P1: `10000000000000000000000001` `0` `1` `0110`. -/
def p1Request : Request :=
  { sender := 0x31#8 :: zeros 24 ++ [0x31#8], group := [0x30#8], onOff := [0x31#8],
    recipient := [0x30#8, 0x31#8, 0x31#8, 0x30#8], profile := tpT }

/-- A concrete state: `IDLE`, the registers of P1 latched, `N_REPEAT = 2`, the pin an output at HIGH. -/
def base : State :=
  { State.reset with
    sender := p1Request.sender, group := p1Request.group, onOff := p1Request.onOff,
    recip := p1Request.recipient, profile := tpT, cmd := p1Request.command,
    cfg := { nRepeat := 2, pin := { id := 0 }, releaseOnReject := false },
    dir := .output, line := .high }

/-- `base` in state `q`. -/
def at_ (q : SeqState) : State := { base with seqState := q }

/-- Some fields of the next state; none where the machine stops. -/
def after {α : Type} (o : Host.Outcome State Fault Refusal) (f : State → α) : Option α :=
  match o with
  | .next s => some (f s)
  | _ => none

/-- What `after` shows of a run, a next state has. -/
theorem exists_of_after {α : Type} {o : Host.Outcome State Fault Refusal} {f : State → α} {v : α}
    (h : after o f = some v) : ∃ t, o = .next t ∧ f t = v := by
  cases o with
  | next s => exact ⟨s, rfl, Option.some.inj h⟩
  | fault r => cases h
  | refused r => cases h

/-- Where the sequencer stands, what it emitted, and its counters. -/
def seqOf (s : State) : SeqState × List SinkWord × Nat × Nat × Bool :=
  (s.seqState, s.outq, s.rep, s.bit, s.half)

/-! ### Well-formedness: the check refuses the two valid codes as an invalid symbol (R82) -/

theorem test_wellFormed_refuses_zero : (Instr.symInvalid 0x30#8).wellFormed = false := by decide

theorem test_wellFormed_refuses_one : (Instr.symInvalid 0x31#8).wellFormed = false := by decide

/-! ### Decoding: words written out from the spec's encodings -/

/-- R93, bit by bit: `OP`, reserved, `LEVEL`, `DUR`. -/
theorem test_decode_sink :
    decodeSink36 0b00_0_0_00000000000000000000000000000000#36 = .ok .configure ∧
    decodeSink36 0b01_0_0_00000000000000000000000000000000#36 = .ok (.setLevel .low) ∧
    decodeSink36 0b01_0_1_00000000000000000000000000000000#36 = .ok (.setLevel .high) ∧
    decodeSink36 0b10_0_0_00000000000000000000000001100011#36 = .ok (.holdFor 99#32) ∧
    decodeSink36 0b10_0_0_11111111111111111111111111111111#36 = .ok (.holdFor 4294967295#32) ∧
    decodeSink36 0b11_0_0_00000000000000000000000000000000#36 = .ok .release := by decide

/-- V2, the five illegal words. -/
theorem test_decode_sink_illegal :
    decodeSink36 0x100000000#36 = .error .levelNotUsed ∧
    decodeSink36 0x400000001#36 = .error .durationNotUsed ∧
    decodeSink36 0x900000005#36 = .error .levelNotUsed ∧
    decodeSink36 0xD00000000#36 = .error .levelNotUsed ∧
    decodeSink36 0xA00000000#36 = .error .reservedBitSet := by decide

/-- V1: the symbol classes. -/
theorem test_decode_symbol :
    decodeSymbol8 0x30#8 = .symZero ∧ decodeSymbol8 0x31#8 = .symOne ∧
    decodeSymbol8 0x32#8 = .symInvalid 0x32#8 ∧ decodeSymbol8 0x2F#8 = .symInvalid 0x2F#8 ∧
    decodeSymbol8 0x00#8 = .symInvalid 0x00#8 ∧ decodeSymbol8 0xFF#8 = .symInvalid 0xFF#8 := by
  decide

/-- R95: all sixteen codes. -/
theorem test_decode_state :
    [0#4, 1#4, 2#4, 3#4, 4#4, 5#4, 6#4, 7#4, 8#4, 9#4, 10#4, 11#4, 12#4, 13#4, 14#4, 15#4].map
        decodeSeqState4 =
      [.idle, .validating, .rejected, .encoding, .acquire, .preSilence, .agc1, .agc2, .bitHigh,
        .bitLow, .close, .silence, .abort, .cleanupLow, .cleanupRelease, .done] := by decide

/-- Table words: a sink word, a symbol, a padded state code, an illegal word. -/
theorem test_decode_table :
    decodeTableWord 40 0x8000000FA = some (.holdFor 250#32) ∧
    decodeTableWord 8 0x31 = some .symOne ∧ decodeTableWord 8 0x0E = some .cleanupRelease ∧
    decodeTableWord 40 0xA00000000 = none := by decide

/-! ### PulseSink operations (V8, R201 to R204) -/

theorem test_configure :
    after (exec .configure { base with dir := .unconfigured, outq := [0x0#36], answers := [.ok] })
      (fun s => (s.dir, s.outq, s.trace)) = some (.output, [], [(0x0#36, .ok)]) := by decide

/-- V8, first row. -/
theorem test_configure_fails :
    after (exec .configure
        { at_ .agc1 with dir := .unconfigured, outq := [0x0#36], answers := [.fail] })
      (fun s => (s.seqState, s.outq, s.err, s.errOp, s.trace)) =
        some (.cleanupLow, [], .sinkFail, 0x0#36, [(0x0#36, .fail)]) := by rfl

theorem test_setLevel :
    after (exec (.setLevel .low)
        { base with outq := [0x400000000#36, 0x800000063#36], answers := [.ok] })
      (fun s => (s.dir, s.line, s.outq, s.trace)) =
        some (.output, .low, [0x800000063#36], [(0x400000000#36, .ok)]) := by decide

/-- V8, second row: the hold behind a failed `SET_LEVEL` is flushed. -/
theorem test_setLevel_fails :
    after (exec (.setLevel .low)
        { at_ .agc1 with outq := [0x400000000#36, 0x800000063#36], answers := [.fail, .ok] })
      (fun s => (s.seqState, s.outq, s.err, s.errOp, s.answers)) =
        some (.cleanupLow, [], .sinkFail, 0x400000000#36, [.ok]) := by decide

theorem test_holdFor :
    after (exec (.holdFor 99#32) { base with outq := [0x800000063#36], answers := [.ok] })
      (fun s => (s.dir, s.line, s.outq, s.trace)) =
        some (.output, .high, [], [(0x800000063#36, .ok)]) := by decide

/-- V8: the failed hold of the pre-silence. -/
theorem test_holdFor_fails :
    after (exec (.holdFor 99#32) { at_ .agc1 with outq := [0x800000063#36], answers := [.fail] })
      (fun s => (s.seqState, s.err, s.errOp, s.line)) =
        some (.cleanupLow, .sinkFail, 0x800000063#36, .high) := by decide

theorem test_release :
    after (exec .release { at_ .done with outq := [0xC00000000#36], answers := [.ok] })
      (fun s => (s.dir, s.line, s.outq, s.doneFlag)) =
        some (.released, .undriven, [], true) := by decide

/-- V8, last row: the first error, a rejection, stays. -/
theorem test_release_fails_rejected :
    after (exec .release
        { at_ .rejected with
          err := .rejected, errLen := 25, outq := [0xC00000000#36], answers := [.fail] })
      (fun s => (s.seqState, s.err, s.errField, s.errLen, s.trace)) =
        some (.rejected, .rejected, .sender, 25, [(0xC00000000#36, .fail)]) := by rfl

/-! ### Symbols (V5) -/

theorem test_symZero :
    after (exec .symZero { at_ .bitLow with half := false }) seqOf =
        some (.bitHigh, [0x400000000#36, 0x800000005#36], 0, 0, true) ∧
    after (exec .symZero { at_ .bitLow with half := true }) seqOf =
        some (.bitHigh, [0x400000000#36, 0x800000007#36], 0, 1, false) := by decide

theorem test_symOne :
    after (exec .symOne { at_ .bitLow with half := false }) seqOf =
        some (.bitHigh, [0x400000000#36, 0x800000007#36], 0, 0, true) ∧
    after (exec .symOne { at_ .bitLow with half := true }) seqOf =
        some (.bitHigh, [0x400000000#36, 0x800000005#36], 0, 1, false) := by decide

/-- V6, the defect row. -/
theorem test_symInvalid :
    after (exec (.symInvalid 0x32#8) { at_ .bitHigh with bit := 5 })
      (fun s => (s.seqState, s.outq, s.err, s.errPos, s.errSym)) =
        some (.abort, [], .defect, 5#5, 0x32#8) := by decide

/-! ### Session steps (V3, V4, V6) -/

/-- V9, the idle row. -/
theorem test_idle :
    after (exec .idle { State.reset with inputs := [.request p1Request] })
      (fun s => (s.seqState, s.sender.length, s.recip, s.profile, s.err, s.inputs)) =
        some (.validating, 26, [0x30#8, 0x31#8, 0x31#8, 0x30#8], tpT, .none, []) := by rfl

theorem test_validating_two_wrong :
    after (exec .validating { at_ .validating with group := [], recip := zeros 5 })
      (fun s => (s.seqState, s.err, s.errField, s.errLen, s.outq)) =
        some (.rejected, .rejected, .group, 0, []) := by decide

theorem test_validating_content_not_checked :
    after (exec .validating { at_ .validating with group := [0x32#8] })
      (fun s => (s.seqState, s.err, s.outq)) = some (.encoding, .none, []) := by decide

theorem test_rejected : after (exec .rejected (at_ .rejected)) seqOf = some (.rejected, [], 0, 0, false) := by
  decide

/-- V4, the all-ones sender: `W = 0xFFFFFFC0`, that is 26 ones and 6 zeros. -/
theorem test_encoding :
    after (exec .encoding
        { at_ .encoding with
          sender := List.replicate 26 0x31#8, group := zeros 1, onOff := zeros 1, recip := zeros 4 })
      (fun s => (s.seqState, s.cmd)) = some (.acquire, List.replicate 26 0x31#8 ++ zeros 6) := by rfl

theorem test_acquire :
    after (exec .acquire { at_ .acquire with rep := 7 }) (fun s => (seqOf s, s.owned)) =
        some ((.agc1, [0x000000000#36], 0, 0, false), true) ∧
    after (exec .acquire { at_ .acquire with profile := tpT1 }) (fun s => s.seqState) =
        some .preSilence := by decide

theorem test_preSilence :
    after (exec .preSilence (at_ .preSilence)) seqOf =
      some (.agc1, [0x400000000#36, 0x800000063#36], 0, 0, false) := by decide

theorem test_cleanupLow :
    after (exec .cleanupLow { at_ .cleanupLow with owned := true }) (fun s => (seqOf s, s.owned)) =
      some ((.cleanupRelease, [0x400000000#36], 0, 0, false), true) := by decide

theorem test_cleanupRelease :
    after (exec .cleanupRelease { at_ .cleanupRelease with owned := true })
      (fun s => (seqOf s, s.owned)) = some ((.done, [0xC00000000#36], 0, 0, false), false) := by decide

theorem test_done : after (exec .done (at_ .done)) seqOf = some (.done, [], 0, 0, false) := by decide

/-! ### Frame steps (V6) -/

theorem test_agc1 :
    after (exec .agc1 (at_ .agc1)) seqOf =
      some (.agc2, [0x500000000#36, 0x80000000B#36], 0, 0, false) := by decide

theorem test_agc2 :
    after (exec .agc2 { at_ .agc2 with bit := 32, half := true }) seqOf =
      some (.bitHigh, [0x400000000#36, 0x800000016#36], 0, 0, false) := by decide

theorem test_bitHigh :
    after (exec .bitHigh (at_ .bitHigh)) seqOf =
      some (.bitLow, [0x500000000#36, 0x800000003#36], 0, 0, false) := by decide

/-- V6: the defect row, read from `CMD`. -/
theorem test_bitHigh_defect :
    after (exec .bitHigh { at_ .bitHigh with bit := 5, cmd := base.cmd.set 5 0x32#8 })
      (fun s => (s.seqState, s.outq, s.err, s.errPos, s.errSym)) =
        some (.abort, [], .defect, 5#5, 0x32#8) := by decide

theorem test_bitLow :
    after (exec .bitLow { at_ .bitLow with bit := 27 }) seqOf =
      some (.bitHigh, [0x400000000#36, 0x800000007#36], 0, 27, true) := by decide

theorem test_bitLow_last :
    after (exec .bitLow { at_ .bitLow with bit := 31, half := true }) seqOf =
      some (.close, [0x400000000#36, 0x800000007#36], 0, 32, false) := by decide

theorem test_close :
    after (exec .close { at_ .close with bit := 32 }) seqOf =
      some (.silence, [0x500000000#36, 0x800000003#36], 0, 32, false) := by decide

theorem test_silence :
    after (exec .silence { at_ .silence with bit := 32 }) seqOf =
        some (.agc1, [0x400000000#36, 0x800000063#36], 1, 32, false) ∧
    after (exec .silence { at_ .silence with bit := 32, rep := 1 }) seqOf =
        some (.cleanupLow, [0x400000000#36, 0x800000063#36], 2, 32, false) := by decide

theorem test_abort :
    after (exec .abort { at_ .abort with err := .defect, bit := 5 }) seqOf =
      some (.cleanupLow, [0x400000000#36], 0, 5, false) := by decide

/-! ### Steps of the machine -/

/-- V9, the mid-frame row: the pin keeps its direction and level, the block is as after power-on. -/
theorem test_reset_mid_frame :
    after (step
        { at_ .bitHigh with
          half := true, owned := true, outq := [0x400000000#36, 0x800000005#36],
          trace := [(0x000000000#36, .ok)], inputs := [.reset none] })
      (fun s => (s.seqState, s.outq, s.trace, s.owned, s.dir, s.line)) =
        some (.idle, [], [], false, .output, .high) := by rfl

/-- V9, the busy row. -/
theorem test_request_while_busy :
    step { at_ .agc2 with inputs := [.request p1Request] } = .next (at_ .agc2) := by rfl

/-- R31: a detail register outside its validity condition. -/
theorem test_read_fault :
    step { at_ .done with inputs := [.read .errSym] } = .fault (.statusNotValid .errSym) := by rfl

/-- R34, R236: the host gets nothing until `DONE = 1`, though `ERR_POS` is written in `ABORT`. -/
theorem test_read_before_done :
    step { at_ .abort with err := .defect, errPos := 5, inputs := [.read .errPos] } =
      .fault (.statusNotValid .errPos) := by rfl

/-- R236: the host may poll `DONE`. -/
theorem test_poll_done :
    step { at_ .agc2 with inputs := [.read .done] } = .next (at_ .agc2) ∧
    (at_ .agc2).hostRead .done = .ok 0 ∧ (at_ .done).hostRead .done = .ok 1 := ⟨rfl, rfl, rfl⟩

/-- R94, I8. -/
theorem test_illegal_word_refused :
    step { base with outq := [0xA00000000#36], answers := [.ok] } =
      .refused (.illegalSinkWord 0xA00000000#36 .reservedBitSet) := by rfl

/-- The first step after reset runs the word placed for it. -/
theorem test_withFetchWord :
    step (State.reset.withFetchWord 40 0x8000000FA) =
        exec (.holdFor 250#32) (State.reset.withFetchWord 40 0x8000000FA) ∧
    step (State.reset.withFetchWord 8 0x0E) =
        exec .cleanupRelease (State.reset.withFetchWord 8 0x0E) ∧
    step (State.reset.withFetchWord 8 0x41) =
        exec (.symInvalid 0x41#8) (State.reset.withFetchWord 8 0x41) := ⟨rfl, rfl, rfl⟩

/-! ### Streams -/

/-- R63, E1: the packed command of P1. -/
theorem test_packed : packedCommand p1Request.command = some 0x80000056#32 := by decide

/-- V7, a defect at 0: 8 operations (E6). -/
theorem test_session_defect :
    session base.cfg { p1Request with sender := 0x32#8 :: zeros 25 } =
      ([0x000000000#36, 0x500000000#36, 0x80000000B#36, 0x400000000#36, 0x800000016#36,
        0x400000000#36, 0x400000000#36, 0xC00000000#36], .defect 0 0x32#8) := by decide

/-- R100, R102: assembly of one wire bit, and the text of an operation with its answer. -/
theorem test_assembly :
    assemble tpT (.wire true) =
        [0x500000000#36, 0x800000003#36, 0x400000000#36, 0x800000007#36] ∧
    traceText .fail (.holdFor (.literal 250)) = some "HOLD_FOR 250 ; fail" := by decide

/-! ### Witnesses: states and operands that meet the hypotheses of each statement -/

/-- The last wire bit of the last frame, with nothing to send. -/
def lastBit : State :=
  { at_ .bitHigh with
    half := true, bit := 31, rep := 1, owned := true, trace := [(0x000000000#36, .ok)] }

/-- The same state with another value in a register that holds none (R39). -/
def lastBitOther : State := { lastBit with errLen := 9, errSym := 0x41#8 }

theorem lastBit_inv : Inv lastBit where
  configFixed := (by decide : 1 ≤ 2)
  queueBound := Nat.zero_le 2
  queueLegal := fun _ h => nomatch h
  quiet := fun h => nomatch h
  owned := rfl
  lengths := fun _ => rfl
  cmdLength := rfl
  cmdValue := fun _ => rfl
  bitBound := (by decide : 31 ≤ 32)
  bitLoop := fun _ => (by decide : 31 < 32)
  checked := fun _ => ⟨0x30#8, rfl, rfl⟩
  repBound := (by decide : 1 ≤ 2)
  repLoop := fun _ => (by decide : 1 < 2)
  noError := fun _ => rfl
  rejectedErr := ⟨fun h => (nomatch h : False).elim, fun h => (nomatch h : False).elim⟩
  abortErr := fun h => nomatch h
  configureFirst := fun _ => rfl
  lowIssued := fun h => nomatch h
  releaseIssued := fun h => nomatch h
  rejectedIssued := fun h => nomatch h

/-- A request whose sender starts with an invalid symbol. -/
def badRequest : Request := { p1Request with sender := 0x32#8 :: zeros 25 }

/-- A request whose sender has 25 symbols. -/
def shortRequest : Request := { p1Request with sender := zeros 25 }

/-- `IDLE` right after reset, with `N_REPEAT = 2`. -/
def fresh : State :=
  { State.reset with cfg := { nRepeat := 2, pin := { id := 0 }, releaseOnReject := false } }

theorem fresh_resetDone : ResetDone fresh := by
  unfold ResetDone; decide

theorem witness_DecodeAfterEncode :
    (Instr.configure).wellFormed = true ∧ (Instr.setLevel .high).wellFormed = true ∧
    (Instr.holdFor 0xFFFFFFFF#32).wellFormed = true ∧ (Instr.release).wellFormed = true ∧
    (Instr.symInvalid 0x32#8).wellFormed = true ∧ (Instr.symInvalid 0x00#8).wellFormed = true ∧
    (Instr.done).wellFormed = true := by decide

theorem witness_EncodeAfterDecode :
    decode (.sink36 0x8FFFFFFFF#36) = .ok (.holdFor 0xFFFFFFFF#32) ∧
    decode (.symbol8 0xFF#8) = .ok (.symInvalid 0xFF#8) ∧
    decode (.seqState4 0xF#4) = .ok .done := by decide

theorem witness_IllegalSinkWords_refused :
    ∃ (s : State) (w : SinkWord) (q : List SinkWord) (e : DecodeError),
      s.inputs = [] ∧ s.outq = w :: q ∧ decodeSink36 w = .error e :=
  ⟨{ base with outq := [0xD00000000#36] }, 0xD00000000#36, [], .levelNotUsed, rfl, rfl, by decide⟩

theorem witness_IllegalSinkWords_neverEmitted :
    ∃ s t : State, s.inputs = [] ∧ s.outq = [] ∧ step s = .next t ∧ t.outq ≠ [] :=
  ⟨at_ .agc1, _, rfl, rfl, rfl, by decide⟩

theorem witness_StatusCodes : (at_ .done).doneFlag = true ∧ (at_ .rejected).doneFlag = true := by
  decide

theorem witness_SymbolClasses :
    (0x2F#8 : Symbol) ≠ 0x30#8 ∧ (0x2F#8 : Symbol) ≠ 0x31#8 ∧
    (0x32#8 : Symbol) ≠ 0x30#8 ∧ (0x32#8 : Symbol) ≠ 0x31#8 := by decide

/-- Each of the three places an instruction is decoded from, without and with a `wait`. -/
theorem witness_StepRunsTheDecodedInstruction :
    (∃ (s : State) (i : Instr), s.inputs = [] ∧
      ∃ w q, s.outq = w :: q ∧ decode (.sink36 w) = .ok i) ∧
    (∃ (s : State) (i : Instr), s.inputs = [.wait] ∧ s.outq = [] ∧
      decode (.seqState4 s.seqState.code) = .ok i) ∧
    (∃ (s : State) (i : Instr), s.inputs = [] ∧ s.outq = [] ∧ s.seqState = .bitLow ∧
      ∃ c, s.cmd[s.bit]? = some c ∧ decode (.symbol8 c) = .ok i) :=
  ⟨⟨{ base with outq := [0xC00000000#36] }, .release, rfl, _, _, rfl, by decide⟩,
    ⟨{ at_ .silence with inputs := [.wait] }, .silence, rfl, rfl, by decide⟩,
    ⟨{ at_ .bitLow with bit := 31 }, .symZero, rfl, rfl, rfl, 0x30#8, by decide, by decide⟩⟩

theorem witness_RequestTransaction :
    (∃ (s : State) (r : Request) (rest : List EnvMove),
      s.seqState = .idle ∧ s.inputs = .request r :: rest) ∧
    (∃ s : State, s.seqState = .idle ∧ s.inputs = []) :=
  ⟨⟨{ fresh with inputs := [.request p1Request] }, p1Request, [], rfl, rfl⟩, fresh, rfl, rfl⟩

theorem witness_RequestOutsideIdle :
    (∃ (s : State) (r : Request) (rest : List EnvMove),
      s.seqState ≠ .idle ∧ s.inputs = .request r :: rest) ∧
    (∃ s t : State, s.seqState = .done ∧ step s = .next t) ∧
    (∃ s t : State, s.seqState = .rejected ∧ step s = .next t) :=
  ⟨⟨{ at_ .done with inputs := [.request p1Request] }, p1Request, [], by decide, rfl⟩,
    ⟨{ at_ .done with inputs := [.request p1Request] }, _, rfl, rfl⟩,
    ⟨at_ .rejected, _, rfl, rfl⟩⟩

/-- One state for each clause, each length one off (V3). -/
theorem witness_ValidatingStep :
    (base.err = .none ∧ (zeros 27).length ≠ 26 ∧ (zeros 25).length ≠ 26) ∧
    (base.sender.length = 26 ∧ (zeros 0).length ≠ 1 ∧ (zeros 2).length ≠ 1) ∧
    (base.group.length = 1 ∧ base.onOff.length = 1 ∧ (zeros 3).length ≠ 4 ∧
      (zeros 5).length ≠ 4) ∧
    base.recip.length = 4 := by decide

theorem witness_EncodingStep :
    (at_ .encoding).sender.length = 26 ∧ (at_ .encoding).group.length = 1 ∧
    (at_ .encoding).onOff.length = 1 ∧ (at_ .encoding).recip.length = 4 := by decide

/-- The three clauses, at the last position. -/
theorem witness_BitHighStep :
    (∃ (s : State) (c : Symbol), s.cmd[s.bit]? = some c ∧ s.half = false ∧ c ≠ 0x30#8 ∧
      c ≠ 0x31#8 ∧ s.err = .none) ∧
    (∃ (s : State) (c : Symbol), s.cmd[s.bit]? = some c ∧ s.half = false ∧ c ≠ 0x30#8 ∧
      c ≠ 0x31#8 ∧ s.err ≠ .none) ∧
    (∃ (s : State) (c : Symbol), s.cmd[s.bit]? = some c ∧ s.half = true ∧ c = 0x30#8) :=
  ⟨⟨{ at_ .bitHigh with bit := 31, cmd := base.cmd.set 31 0x2F#8 }, 0x2F#8, by decide⟩,
    ⟨{ at_ .bitHigh with bit := 31, cmd := base.cmd.set 31 0x2F#8, err := .defect }, 0x2F#8,
      by decide⟩,
    ⟨lastBit, 0x30#8, by decide⟩⟩

/-- The first wire bit, the second, and the second of the last symbol. -/
theorem witness_BitLowStep :
    ((at_ .bitLow).cmd[(at_ .bitLow).bit]? = some 0x31#8 ∧ (at_ .bitLow).half = false) ∧
    (∃ s : State, s.cmd[s.bit]? = some 0x30#8 ∧ s.half = true ∧ s.bit + 1 = 31) ∧
    (∃ s : State, s.cmd[s.bit]? = some 0x30#8 ∧ s.half = true ∧ s.bit + 1 = 32) :=
  ⟨by decide,
    ⟨{ at_ .bitLow with half := true, bit := 30, cmd := zeros 32 }, by decide⟩,
    ⟨{ at_ .bitLow with half := true, bit := 31, cmd := zeros 32 }, by decide⟩⟩

theorem witness_BitLoopOutsideTheRules :
    (∃ (s : State) (c : Symbol), s.cmd[s.bit]? = some c ∧ c ≠ 0x30#8 ∧ c ≠ 0x31#8) ∧
    (∃ s : State, s.cmd[s.bit]? = none) :=
  ⟨⟨{ at_ .bitLow with cmd := [0x41#8] }, 0x41#8, by decide⟩,
    ⟨{ at_ .bitLow with bit := 32 }, by decide⟩⟩

theorem witness_ValidSymbolSteps :
    (at_ .bitHigh).seqState = .bitHigh ∧
    ((at_ .bitLow).seqState = .bitLow ∧ (at_ .bitLow).half = false) ∧
    (∃ s : State, s.seqState = .bitLow ∧ s.half = true ∧ s.bit + 1 = 32) :=
  ⟨by decide, by decide, ⟨{ at_ .bitLow with half := true, bit := 31 }, by decide⟩⟩

theorem witness_InvalidSymbolIsADefect :
    (0x32#8 : Symbol) ≠ 0x30#8 ∧ (0x32#8 : Symbol) ≠ 0x31#8 ∧ (at_ .bitHigh).seqState = .bitHigh ∧
    (at_ .bitHigh).half = false ∧ (at_ .bitHigh).err = .none := by decide

theorem witness_SymbolsOutsideTheBitLoop :
    (at_ .close).seqState ≠ .bitHigh ∧ (at_ .close).seqState ≠ .bitLow ∧
    decode (.symbol8 0x41#8) = .ok (.symInvalid 0x41#8) := by decide

theorem witness_TerminalSteps :
    (∃ s : State, s.seqState = .done ∧ s.outq = [] ∧ s.inputs = []) ∧
    (∃ s : State, s.seqState = .rejected ∧ s.outq = [] ∧ s.inputs = []) :=
  ⟨⟨at_ .done, rfl, rfl, rfl⟩, ⟨at_ .rejected, rfl, rfl, rfl⟩⟩

theorem witness_ConfigureOperation :
    (∃ (s : State) (rest : List Answer), s.answers = .ok :: rest) ∧
    (∃ (s : State) (rest : List Answer), s.answers = .fail :: rest) :=
  ⟨⟨{ base with answers := [.ok] }, [], rfl⟩, ⟨{ base with answers := [.fail] }, [], rfl⟩⟩

/-- An answer of each kind, on an output. -/
theorem witness_SetLevelOperation :
    (∃ (s : State) (rest : List Answer), s.answers = .ok :: rest ∧ s.dir = .output) ∧
    (∃ (s : State) (rest : List Answer), s.answers = .fail :: rest ∧ s.dir = .output) :=
  ⟨⟨{ base with answers := [.ok] }, [], rfl, rfl⟩, ⟨{ base with answers := [.fail] }, [], rfl, rfl⟩⟩

theorem witness_HoldForOperation :
    ∃ (s : State) (a : Answer) (rest : List Answer), s.answers = a :: rest :=
  ⟨{ base with answers := [.fail] }, .fail, [], rfl⟩

theorem witness_ReleaseOperation :
    ∃ (s : State) (a : Answer) (rest : List Answer), s.answers = a :: rest ∧ s.dir = .output :=
  ⟨{ base with answers := [.ok] }, .ok, [], rfl, rfl⟩

/-- A first failure in a frame, and a later one in `CLEANUP_RELEASE`. -/
theorem witness_SinkFailureRedirects :
    (∃ (s : State) (w : SinkWord) (q : List SinkWord) (i : Instr) (rest : List Answer),
      s.inputs = [] ∧ s.outq = w :: q ∧ decodeSink36 w = .ok i ∧ s.answers = .fail :: rest ∧
        s.err = .none ∧ ¬(s.seqState = .cleanupRelease ∨ s.seqState = .done ∨ s.seqState = .rejected)) ∧
    (∃ (s : State) (w : SinkWord) (q : List SinkWord) (i : Instr) (rest : List Answer),
      s.inputs = [] ∧ s.outq = w :: q ∧ decodeSink36 w = .ok i ∧ s.answers = .fail :: rest ∧
        s.err ≠ .none ∧ (s.seqState = .cleanupRelease ∨ s.seqState = .done ∨ s.seqState = .rejected)) :=
  ⟨⟨{ at_ .agc2 with outq := [0x500000000#36, 0x80000000B#36], answers := [.fail] },
      0x500000000#36, [0x80000000B#36], .setLevel .high, [], rfl, rfl, by decide, rfl, rfl, by decide⟩,
    ⟨{ at_ .cleanupRelease with outq := [0x400000000#36], answers := [.fail], err := .defect },
      0x400000000#36, [], .setLevel .low, [], rfl, rfl, by decide, rfl, by decide, by decide⟩⟩

theorem witness_WaitsForThePulseSink :
    ∃ (s : State) (w : SinkWord) (q : List SinkWord) (i : Instr), s.inputs = [] ∧
      s.outq = w :: q ∧ decodeSink36 w = .ok i ∧ s.answers = [] :=
  ⟨{ at_ .done with outq := [0xC00000000#36] }, 0xC00000000#36, [], .release, rfl, rfl, by decide, rfl⟩

theorem witness_DerivedFlags :
    (at_ .done).doneFlag = true ∧ (at_ .done).err = .none ∧ (at_ .rejected).doneFlag = true := by
  decide

/-- Each detail register read where it is valid, and where `DONE` or `ERR` is not as needed; `CODE` with
`DONE = 1` and before; a flag. -/
theorem witness_DetailReads :
    (∃ (s : State) (rest : List EnvMove), s.inputs = .read .errField :: rest ∧ s.doneFlag = true ∧
      s.err = .rejected) ∧
    (∃ (s : State) (rest : List EnvMove), s.inputs = .read .errLen :: rest ∧ s.err ≠ .rejected) ∧
    (∃ (s : State) (rest : List EnvMove), s.inputs = .read .errPos :: rest ∧ s.doneFlag = true ∧
      s.err = .defect) ∧
    (∃ (s : State) (rest : List EnvMove), s.inputs = .read .errSym :: rest ∧ s.doneFlag = false ∧
      s.err = .defect) ∧
    (∃ (s : State) (rest : List EnvMove), s.inputs = .read .errOp :: rest ∧ s.doneFlag = true ∧
      s.err = .sinkFail) ∧
    (∃ (s : State) (rest : List EnvMove), s.inputs = .read .code :: rest ∧ s.doneFlag = true) ∧
    (∃ (s : State) (rest : List EnvMove), s.inputs = .read .code :: rest ∧ s.doneFlag = false) ∧
    (∃ (s : State) (rest : List EnvMove), s.inputs = .read .done :: rest) :=
  ⟨⟨{ at_ .rejected with err := .rejected, inputs := [.read .errField] }, [], rfl, rfl, rfl⟩,
    ⟨{ at_ .done with inputs := [.read .errLen] }, [], rfl, by decide⟩,
    ⟨{ at_ .done with err := .defect, inputs := [.read .errPos] }, [], rfl, rfl, rfl⟩,
    ⟨{ at_ .abort with err := .defect, inputs := [.read .errSym] }, [], rfl, rfl, rfl⟩,
    ⟨{ at_ .done with err := .sinkFail, inputs := [.read .errOp] }, [], rfl, rfl, rfl⟩,
    ⟨{ at_ .done with inputs := [.read .code] }, [], rfl, rfl⟩,
    ⟨{ at_ .done with outq := [0xC00000000#36], inputs := [.read .code] }, [], rfl, rfl⟩,
    ⟨{ at_ .agc1 with inputs := [.read .done] }, [], rfl⟩⟩

theorem witness_ResetStep :
    (∃ (s : State) (f : Option Answer) (rest : List EnvMove), s.inputs = .reset f :: rest) ∧
    (∃ s t : State, s.seqState = .done ∧ step s = .next t ∧ t.seqState ≠ s.seqState) ∧
    (∃ s t : State, s.seqState = .rejected ∧ step s = .next t ∧ t.seqState ≠ s.seqState) :=
  ⟨⟨{ lastBit with inputs := [.reset none] }, none, [], rfl⟩,
    ⟨{ at_ .done with inputs := [.reset none] }, _, rfl, rfl, by decide⟩,
    ⟨{ at_ .rejected with inputs := [.reset none] }, _, rfl, rfl, by decide⟩⟩

/-- Nothing in flight; an operation the PulseSink gives up; `SET_LEVEL` of each level completed. -/
theorem witness_ResetLeavesThePin :
    (∃ s t : State, s.inputs = [.reset (some .ok)] ∧ s.outq = [] ∧ step s = .next t) ∧
    (∃ s t : State, s.inputs = [.reset none] ∧ s.outq = [0x400000000#36] ∧ step s = .next t) ∧
    (∃ s t : State, s.inputs = [.reset (some .ok)] ∧ s.outq = [0x400000000#36] ∧ s.dir = .output ∧
      step s = .next t) ∧
    (∃ s t : State, s.inputs = [.reset (some .ok)] ∧ s.outq = [0x500000000#36] ∧ s.dir = .output ∧
      step s = .next t) :=
  ⟨⟨{ base with inputs := [.reset (some .ok)] }, _, rfl, rfl, rfl⟩,
    ⟨{ base with inputs := [.reset none], outq := [0x400000000#36] }, _, rfl, rfl, rfl⟩,
    ⟨{ base with inputs := [.reset (some .ok)], outq := [0x400000000#36] }, _, rfl, rfl, rfl, rfl⟩,
    ⟨{ base with inputs := [.reset (some .ok)], outq := [0x500000000#36] }, _, rfl, rfl, rfl, rfl⟩⟩

theorem witness_StepKeepsTheSessionShape :
    ∃ s t : State, Inv s ∧ step s = .next t ∧ resetNext s = false :=
  ⟨lastBit, _, lastBit_inv, rfl, by decide⟩

theorem witness_TransitionTable :
    ∃ s t : State, Inv s ∧ step s = .next t ∧ resetNext s = false ∧ t.seqState ≠ s.seqState :=
  ⟨lastBit, _, lastBit_inv, rfl, by decide, by decide⟩

theorem witness_ConfigurationNeverChanges : ∃ s t : State, step s = .next t :=
  ⟨{ lastBit with inputs := [.reset (some .fail)] }, _, rfl⟩

theorem witness_FirstErrorWins :
    ∃ s t : State, step s = .next t ∧ s.err ≠ .none ∧ resetNext s = false ∧ requestNext s = false :=
  ⟨{ at_ .abort with err := .defect, outq := [0x400000000#36], answers := [.fail] }, _, rfl, by decide,
    by decide, by decide⟩

theorem witness_CommandAndProfileAreImmutable :
    ∃ s t : State, step s = .next t ∧ resetNext s = false ∧ requestNext s = false ∧
      s.seqState ≠ .encoding :=
  ⟨lastBit, _, rfl, by decide, by decide, by decide⟩

/-- The two cases of the pin: a request, and another agent's touch. -/
theorem witness_DoneIsFinal :
    (∃ s t : State, s.doneFlag = true ∧ step s = .next t ∧ resetNext s = false ∧
      touchNext s = false) ∧
    (∃ s t : State, s.doneFlag = true ∧ step s = .next t ∧ resetNext s = false ∧
      touchNext s = true) :=
  ⟨⟨{ at_ .done with inputs := [.request p1Request] }, _, by decide, rfl, by decide, by decide⟩,
    ⟨{ at_ .done with inputs := [.touchPin .output .low] }, _, by decide, rfl, by decide, by decide⟩⟩

/-- The sequencer moves, and the PulseSink does. -/
theorem witness_OneOperationAtATime :
    (∃ s t : State, s.inputs = [] ∧ step s = .next t ∧ s.outq = []) ∧
    (∃ (s t : State) (w : SinkWord) (q : List SinkWord), s.inputs = [] ∧ step s = .next t ∧
      s.outq = w :: q) :=
  ⟨⟨lastBit, _, rfl, rfl, rfl⟩,
    ⟨{ base with outq := [0x500000000#36, 0x800000003#36], answers := [.ok] }, _, 0x500000000#36,
      [0x800000003#36], rfl, rfl, rfl⟩⟩

theorem witness_ObservableLevelIsOnTheLine_step :
    ∃ s t : State, (∀ l, s.observableLevel = some l → s.line = l.toLine) ∧ touchNext s = false ∧
      step s = .next t ∧ t.observableLevel = some .high :=
  ⟨{ base with outq := [0x500000000#36], answers := [.ok] }, _, by decide, by decide, rfl, by decide⟩

/-- A session up to the first HIGH, after another agent has let the pin go. -/
theorem witness_ObservableLevelIsOnTheLine_run :
    ∃ (k : Nat) (s t : State), ResetDone s ∧ ConfigFixed s ∧ Exclusive s ∧
      Sys2Proof.core.run k s = .next t ∧ t.observableLevel = some .high := by
  let s : State :=
    { fresh with
      inputs := [.touchPin .released .undriven, .request p1Request], answers := [.ok, .ok] }
  have he : Exclusive s :=
    run_forall_of_step (P := fun t => t.usesPin = true → touchNext t = false) rfl (by decide)
      (exclusive_of_no_touch (by simp))
  obtain ⟨t, ht, hv⟩ := exists_of_after (o := Sys2Proof.core.run 8 s) (f := State.observableLevel)
    (v := some .high) (by rfl)
  exact ⟨8, s, t, fresh_resetDone, (by decide : 1 ≤ 2), he, ht, hv⟩

/-- A touch in the middle of a frame. -/
theorem witness_ObservableLevelIsOnTheLine_touch :
    ∃ (s : State) (d : Dir) (l : Line) (rest : List EnvMove), s.inputs = .touchPin d l :: rest :=
  ⟨{ lastBit with inputs := [.touchPin .output .low] }, .output, .low, [], rfl⟩

/-- A session that waits for an answer in its last bit. -/
theorem witness_PinIsOwnedUntilDone :
    ∃ (k : Nat) (s t : State), Inv s ∧ s.owned = true ∧ NoResetMidSession s ∧
      Sys2Proof.core.run k s = .next t := by
  refine ⟨1, lastBit, _, lastBit_inv, rfl, ?_, rfl⟩
  refine run_forall_of_step
    (P := fun t => t.seqState ≠ .idle → t.doneFlag = false → resetNext t = false) rfl
    (fun _ _ => rfl) ?_
  exact run_forall_of_fixed rfl (fun _ _ => rfl)

/-- A rejected session with its one `RELEASE`, which is answered. -/
theorem witness_AcceptedRequestsEnd :
    ∃ (s : State) (r : Request), ConfigFixed s ∧ ResetDone s ∧ ProfileChosen r ∧ SinkAnswers s ∧
      s.inputs = [.request r] := by
  refine ⟨{ fresh with
      cfg := { fresh.cfg with releaseOnReject := true }
      dir := .output, inputs := [.request shortRequest], answers := [.ok] }, shortRequest,
    (by decide : 1 ≤ 2), fresh_resetDone, profileChosen _, ?_, rfl⟩
  refine run_forall_of_step (P := fun t => t.outq ≠ [] → t.answers ≠ []) rfl (by decide) ?_
  refine run_forall_of_step rfl (by decide) ?_
  refine run_forall_of_step rfl (by decide) ?_
  exact run_forall_of_fixed rfl (by decide)

theorem witness_UnwrittenRegistersAreNeverRead :
    ∃ s t : State, Inv s ∧ SameWritten s t ∧ s ≠ t :=
  ⟨lastBit, lastBitOther, lastBit_inv,
    { position := rfl, latched := fun _ => ⟨rfl, rfl, rfl, rfl, rfl⟩, cmd := fun _ => rfl,
      rep := fun _ => rfl, bit := fun _ => ⟨rfl, rfl⟩, err := rfl,
      rejectedDetail := fun h => absurd h (by decide), defectDetail := fun h => absurd h (by decide),
      sinkDetail := fun h => absurd h (by decide), owned := rfl, outq := rfl, trace := rfl,
      dir := rfl, line := rfl, cfg := rfl, inputs := rfl, answers := rfl, draws := rfl },
    fun h => absurd (congrArg State.errLen h) (by decide)⟩

/-- A rejected session: the request and `VALIDATING`. -/
theorem witness_SessionGuarantees_rejected :
    ∃ (k : Nat) (s t : State), ResetDone s ∧ ConfigFixed s ∧ Sys2Proof.core.run k s = .next t ∧
      t.doneFlag = true ∧ t.seqState = .rejected :=
  ⟨2, { fresh with inputs := [.request shortRequest] }, _, fresh_resetDone, (by decide : 1 ≤ 2), rfl,
    by decide, by decide⟩

/-- A short session that takes the pin: the first `SET_LEVEL` fails (V8, fourth row). -/
theorem witness_SessionGuarantees_done :
    ∃ (k : Nat) (s t : State), ResetDone s ∧ ConfigFixed s ∧ Sys2Proof.core.run k s = .next t ∧
      t.doneFlag = true ∧ t.seqState = .done := by
  let s : State := { fresh with inputs := [.request p1Request], answers := [.ok, .fail, .ok, .ok] }
  obtain ⟨t, ht, hv⟩ := exists_of_after (o := Sys2Proof.core.run 11 s)
    (f := fun t => (State.doneFlag t, State.seqState t)) (v := (true, .done)) (by rfl)
  exact ⟨11, s, t, fresh_resetDone, (by decide : 1 ≤ 2), ht, congrArg Prod.fst hv,
    congrArg Prod.snd hv⟩

/-- One session with a defect, one rejected, both with answers enough. -/
theorem witness_RunIsTheSessionFunction :
    (∃ (s : State) (r : Request), ResetDone s ∧ ConfigFixed s ∧ s.inputs = [.request r] ∧
      SinkReliable s ∧ (session s.cfg r).1.length ≤ s.answers.length ∧ (session s.cfg r).1 ≠ []) ∧
    (∃ (s : State) (r : Request), ResetDone s ∧ ConfigFixed s ∧ s.inputs = [.request r] ∧
      SinkReliable s ∧ (session s.cfg r).1.length ≤ s.answers.length ∧ (session s.cfg r).1 = []) :=
  ⟨⟨{ fresh with inputs := [.request badRequest], answers := List.replicate 8 .ok }, badRequest,
      fresh_resetDone, (by decide : 1 ≤ 2), rfl, by unfold SinkReliable; decide, by decide, by decide⟩,
    ⟨{ fresh with inputs := [.request shortRequest] }, shortRequest,
      fresh_resetDone, (by decide : 1 ≤ 2), rfl, by unfold SinkReliable; decide, by decide, by decide⟩⟩

theorem witness_RunsEnd :
    ∃ s : State, Inv s ∧ s.inputs = [] ∧ s.seqState ≠ .idle ∧
      2 * s.budget + s.outq.length ≤ s.answers.length :=
  ⟨{ lastBit with answers := List.replicate 12 .fail },
    { lastBit_inv with configFixed := lastBit_inv.configFixed }, rfl, by decide, by decide⟩

theorem witness_InternalStepsAreBounded :
    (∃ s : State, Inv s ∧ s.inputs = [] ∧ s.stepEnabled = true) ∧
    (∃ s t : State, Inv s ∧ s.inputs = [] ∧ step s = .next t) ∧
    (at_ .validating).seqState = .validating :=
  ⟨⟨lastBit, lastBit_inv, rfl, by decide⟩, ⟨lastBit, _, lastBit_inv, rfl, rfl⟩, rfl⟩

/-- The three outcomes, the defect at the first position. -/
theorem witness_OperationCounts :
    1 ≤ base.cfg.nRepeat ∧ shortRequest.firstWrongField = some (.sender, 25) ∧
    (p1Request.firstWrongField = none ∧ ∀ c ∈ p1Request.command, validSymbol c = true) ∧
    (badRequest.firstWrongField = none ∧ badRequest.command[0]? = some 0x32#8 ∧
      validSymbol 0x32#8 = false ∧
      ∀ j b, j < 0 → badRequest.command[j]? = some b → validSymbol b = true) :=
  ⟨by decide, by decide, by decide, by decide, by decide, by decide,
    fun j _ h => absurd h (Nat.not_lt_zero j)⟩

theorem witness_FrameIsTheIndexTable : (List.replicate 32 true).length = 32 := by decide

theorem witness_NominalDurations :
    1 ≤ base.cfg.nRepeat ∧ shortRequest.firstWrongField ≠ none ∧
    (p1Request.firstWrongField = none ∧ ∀ c ∈ p1Request.command, validSymbol c = true) ∧
    (badRequest.firstWrongField = none ∧ badRequest.command[0]? = some 0x32#8 ∧
      validSymbol 0x32#8 = false) := by decide

theorem witness_PackedView :
    p1Request.command.length = 32 ∧ ∀ c ∈ p1Request.command, validSymbol c = true := by decide

theorem witness_ProfileIndependence :
    (tpT.preSil = { tpT with tLow1 := 30 }.preSil) ∧ tpT1.preSil = true ∧ tpT.preSil = false ∧
    p1Request.firstWrongField = none := by decide

end Sys2Proof.Tests
end

namespace Sys2Proof

/-- R28, I13: the model fixes no preset's values, only that the two flags are opposite. -/
@[simp] theorem Config.revB_preSil : Config.revB.preSil = !Config.revA.preSil := rfl

namespace Machine

@[simp] theorem ProfileChoice.profile_revA : ProfileChoice.revA.profile = Config.revA := rfl

@[simp] theorem ProfileChoice.profile_revB : ProfileChoice.revB.profile = Config.revB := rfl

/-- Settles O57: whatever flag `REV_A` has, `REV_B` has its negation. -/
theorem presetsDifferInPreSilence : Obligations.PresetsDifferInPreSilence := by
  unfold Obligations.PresetsDifferInPreSilence
  rw [ProfileChoice.profile_revA, ProfileChoice.profile_revB, Config.revB_preSil]
  exact Bool.self_ne_not Config.revA.preSil

end Machine

end Sys2Proof

namespace Sys2Proof.Machine

/-! ### Who moves (R6, R36, R68, R206) -/

/-- With nothing in `OUTQ` the sequencer runs the step of its state. -/
theorem blockMove_of_empty {s : State} (ho : s.outq = []) :
    blockMove s = exec s.seqState.instr s := by
  simp only [blockMove, State.fetch, ho, decodeSeqState4_code]

/-- With a legal head of `OUTQ` the PulseSink runs it. -/
theorem blockMove_of_legal {s : State} {w : SinkWord} {q : List SinkWord} {i : Instr}
    (ho : s.outq = w :: q) (hd : decodeSink36 w = .ok i) : blockMove s = exec i s := by
  simp only [blockMove, State.fetch, ho, hd]

theorem blockMove_of_illegal {s : State} {w : SinkWord} {q : List SinkWord} {e : DecodeError}
    (ho : s.outq = w :: q) (hd : decodeSink36 w = .error e) :
    blockMove s = .refused (.illegalSinkWord w e) := by
  simp only [blockMove, State.fetch, ho, hd]

/-- With no input the block moves. -/
theorem step_of_no_input {s : State} (h : s.inputs = []) : step s = blockMove s := by
  simp only [step, nextMove, h]

/-- With a wait at the port the block moves, and the wait is used up. -/
theorem step_of_wait {s : State} {rest : List EnvMove} (h : s.inputs = .wait :: rest) :
    step s = afterMove rest (blockMove s) := by
  simp only [step, nextMove, h]

/-- A host read where the register holds a value for the host uses up the input alone (R66). -/
theorem step_of_valid_read {s : State} {r : HostReg} {rest : List EnvMove}
    (h : s.inputs = .read r :: rest) (hv : s.statusValid r = true) :
    step s = .next { s with inputs := rest } ∧ s.hostRead r = .ok (s.statusValue r) := by
  have hr : s.hostRead r = .ok (s.statusValue r) := if_pos hv
  exact ⟨by simp only [step, nextMove, h, hr], hr⟩

/-- A host read of a register that holds no value for the host faults (R31, log entry 19). -/
theorem step_of_invalid_read {s : State} {r : HostReg} {rest : List EnvMove}
    (h : s.inputs = .read r :: rest) (hv : s.statusValid r = false) :
    step s = .fault (.statusNotValid r) := by
  have hr : s.hostRead r = .error (.statusNotValid r) := if_neg (by simp [hv])
  simp only [step, nextMove, h, hr]

/-- `IDLE` with a request at the port latches it (R170). -/
theorem exec_idle_of_request {s : State} {r : Request} {rest : List EnvMove}
    (h : s.inputs = .request r :: rest) :
    exec .idle s = .next (State.latch { s with inputs := rest } r) := by
  simp only [exec, execIdle, h]

/-! ### What an internal step of a session can do (R36, R174) -/

/-- The steps of the pre-silence and the frame that send a pulse: the state each goes to, with the
new `REP`, `BIT` and `HALF` (R141 to R147, R173). -/
inductive PulseMove (s : State) : SeqState → Nat → Nat → Bool → Prop
  | preSilence (hq : s.seqState = .preSilence) : PulseMove s .agc1 s.rep s.bit s.half
  | agc1 (hq : s.seqState = .agc1) : PulseMove s .agc2 s.rep s.bit s.half
  | agc2 (hq : s.seqState = .agc2) : PulseMove s .bitHigh s.rep 0 false
  | bitHigh (hq : s.seqState = .bitHigh) (hv : s.symbolValid) :
      PulseMove s .bitLow s.rep s.bit s.half
  | firstLow (hq : s.seqState = .bitLow) (hh : s.half = false) :
      PulseMove s .bitHigh s.rep s.bit true
  | secondLow (hq : s.seqState = .bitLow) (hh : s.half = true) (hb : s.bit + 1 < 32) :
      PulseMove s .bitHigh s.rep (s.bit + 1) false
  | lastLow (hq : s.seqState = .bitLow) (hh : s.half = true) (hb : s.bit + 1 = 32) :
      PulseMove s .close s.rep (s.bit + 1) false
  | close (hq : s.seqState = .close) : PulseMove s .silence s.rep s.bit s.half
  | silence (hq : s.seqState = .silence) (hr : s.rep + 1 < s.cfg.nRepeat) :
      PulseMove s .agc1 (s.rep + 1) s.bit s.half
  | lastSilence (hq : s.seqState = .silence) (hr : ¬ s.rep + 1 < s.cfg.nRepeat) :
      PulseMove s .cleanupLow (s.rep + 1) s.bit s.half

/-- The moves of the sequencer from a state with `Inv` and an empty `OUTQ`. -/
inductive SeqMove (s : State) : State → Prop
  | rests (hq : s.seqState = .idle ∨ s.seqState.terminal = true) : SeqMove s s
  | rejects {f : Field} {n : Nat} (hq : s.seqState = .validating)
      (hw : s.firstWrongField = some (f, n)) : SeqMove s (specRejected s f n)
  | accepts (hq : s.seqState = .validating) (hw : s.firstWrongField = none) :
      SeqMove s (s.goTo .encoding)
  | encodes (hq : s.seqState = .encoding) :
      SeqMove s { s with cmd := s.concatenation, seqState := .acquire }
  | acquires (hq : s.seqState = .acquire) :
      SeqMove s
        { s.emit configureWord with
          owned := true, rep := 0, seqState := if s.profile.preSil then .preSilence else .agc1 }
  | pulses {q : SeqState} {r b : Nat} {x : Bool} (l : Level) (d : Duration)
      (hm : PulseMove s q r b x) :
      SeqMove s { s.pulse l d with seqState := q, rep := r, bit := b, half := x }
  | findsDefect (c : Symbol) (hq : s.seqState = .bitHigh) :
      SeqMove s
        { s with
          err := .defect, errPos := BitVec.ofNat 5 s.bit, errSym := c, seqState := .abort }
  | aborts (hq : s.seqState = .abort) :
      SeqMove s { s.emit (setLevelWord .low) with seqState := .cleanupLow }
  | lowers (hq : s.seqState = .cleanupLow) :
      SeqMove s { s.emit (setLevelWord .low) with seqState := .cleanupRelease }
  | releases (hq : s.seqState = .cleanupRelease) :
      SeqMove s { s.emit releaseWord with owned := false, seqState := .done }

/-- `VALIDATING` of a wrong field, as the statements write it (R120). -/
theorem execValidating_of_wrong {s : State} {f : Field} {n : Nat} (he : s.err = .none)
    (hw : s.firstWrongField = some (f, n)) : execValidating s = .next (specRejected s f n) := by
  simp only [execValidating, hw, State.raise_validation he, State.releaseIfConfigured, specRejected]
  split <;> simp [State.emit]

theorem execValidating_of_right {s : State} (hw : s.firstWrongField = none) :
    execValidating s = .next (s.goTo .encoding) := by
  simp only [execValidating, hw]

theorem execBitHigh_of_symbol {s : State} {c : Symbol} (hc : s.currentSymbol = some c) :
    execBitHigh s = .next (bitHighOn c s) := by
  simp only [execBitHigh, hc]

theorem execBitLow_of_symbol {s : State} {c : Symbol} (hc : s.currentSymbol = some c) :
    execBitLow s = .next (bitLowOn c s) := by
  simp only [execBitLow, hc]

/-- In the bit loop `CMD` has a symbol at `BIT` (R143). -/
theorem Inv.currentSymbol {s : State} (hi : Inv s)
    (hq : s.seqState = .bitHigh ∨ s.seqState = .bitLow) : ∃ c, s.currentSymbol = some c :=
  ⟨_, List.getElem?_eq_getElem (by rw [hi.cmdLength]; exact hi.bitLoop hq)⟩

theorem seqMove_bitHigh {s : State} (hi : Inv s) (hq : s.seqState = .bitHigh) :
    ∃ t, execBitHigh s = .next t ∧ SeqMove s t := by
  obtain ⟨c, hc⟩ := hi.currentSymbol (.inl hq)
  refine ⟨_, execBitHigh_of_symbol hc, ?_⟩
  cases hv : validSymbol c with
  | true =>
    rw [bitHighOn_of_ok (.inr hv)]
    exact .pulses .high _ (.bitHigh hq ⟨c, hc, hv⟩)
  | false =>
    cases hh : s.half with
    | true =>
      rw [bitHighOn_of_ok (.inl hh)]
      exact .pulses .high _ (.bitHigh hq (hi.checked (.inr ⟨hq, hh⟩)))
    | false =>
      rw [bitHighOn_of_invalid hh hv, State.raise_defect (hi.noError (by rw [hq]; rfl))]
      exact .findsDefect c hq

theorem seqMove_bitLow {s : State} (hi : Inv s) (hq : s.seqState = .bitLow) :
    ∃ t, execBitLow s = .next t ∧ SeqMove s t := by
  obtain ⟨c, hc, hv⟩ := hi.checked (.inl hq)
  have hb := hi.bitLoop (.inr hq)
  refine ⟨_, execBitLow_of_symbol hc, ?_⟩
  cases hh : s.half with
  | false =>
    rw [bitLowOn_of_first hv hh]
    exact .pulses .low _ (.firstLow hq hh)
  | true =>
    rw [bitLowOn_of_second hv hh]
    by_cases hl : s.bit + 1 = 32
    · rw [if_pos hl]
      exact .pulses .low _ (.lastLow hq hh hl)
    · rw [if_neg hl]
      exact .pulses .low _ (.secondLow hq hh (by omega))

/-- With `Inv`, nothing in `OUTQ` and no request at the port, the sequencer goes on, and by a
`SeqMove`. -/
theorem seqMove_of_exec {s : State} (hi : Inv s)
    (hr : ∀ r rest, s.inputs ≠ .request r :: rest) :
    ∃ t, exec s.seqState.instr s = .next t ∧ SeqMove s t := by
  cases hq : s.seqState <;> simp only [SeqState.instr]
  case idle => exact ⟨s, exec_idle_waits hr, .rests (.inl hq)⟩
  case validating =>
    cases hw : s.firstWrongField with
    | none => exact ⟨_, execValidating_of_right hw, .accepts hq hw⟩
    | some p =>
      obtain ⟨-, -, he⟩ := hi.quiet (by rw [hq]; rfl)
      exact ⟨_, execValidating_of_wrong he hw, .rejects hq hw⟩
  case rejected => exact ⟨s, rfl, .rests (.inr (by rw [hq]; rfl))⟩
  case done => exact ⟨s, rfl, .rests (.inr (by rw [hq]; rfl))⟩
  case encoding => exact ⟨_, rfl, .encodes hq⟩
  case acquire => exact ⟨_, rfl, .acquires hq⟩
  case preSilence => exact ⟨_, rfl, .pulses .low _ (.preSilence hq)⟩
  case agc1 => exact ⟨_, rfl, .pulses .high _ (.agc1 hq)⟩
  case agc2 => exact ⟨_, rfl, .pulses .low _ (.agc2 hq)⟩
  case bitHigh => exact seqMove_bitHigh hi hq
  case bitLow => exact seqMove_bitLow hi hq
  case close => exact ⟨_, rfl, .pulses .high _ (.close hq)⟩
  case silence =>
    refine ⟨_, rfl, ?_⟩
    by_cases hn : s.rep + 1 < s.cfg.nRepeat
    · rw [if_pos hn]
      exact .pulses .low _ (.silence hq hn)
    · rw [if_neg hn]
      exact .pulses .low _ (.lastSilence hq hn)
  case abort => exact ⟨_, rfl, .aborts hq⟩
  case cleanupLow => exact ⟨_, rfl, .lowers hq⟩
  case cleanupRelease => exact ⟨_, rfl, .releases hq⟩

end Sys2Proof.Machine

namespace Sys2Proof.Machine

/-! ### The invariant speaks of the block alone -/

/-- The invariant reads nothing of the environment, the PulseSink or the count of draws. -/
theorem Inv.environment {s : State} (hi : Inv s) (is : List EnvMove) (as : List Answer) (d : Dir)
    (l : Line) (n : Nat) :
    Inv { s with inputs := is, answers := as, dir := d, line := l, draws := n } :=
  { hi with }

theorem Inv.setInputs {s : State} (hi : Inv s) (is : List EnvMove) : Inv { s with inputs := is } :=
  hi.environment is s.answers s.dir s.line s.draws

/-! ### The states before the pin -/

/-- Before the first sink operation the invariant is this much. -/
theorem inv_of_beforePin {s : State} (hq : s.seqState.beforePin = true) (hc : ConfigFixed s)
    (hn : s.outq = [] ∧ s.trace = [] ∧ s.err = .none) (ho : s.owned = false)
    (hl : s.seqState.validated = true → s.firstWrongField = none) (hm : s.cmd.length = 32)
    (hv : s.seqState.encoded = true → s.cmd = s.concatenation) (hb : s.bit ≤ 32)
    (hr : s.rep ≤ s.cfg.nRepeat) : Inv s := by
  obtain ⟨hoq, htr, he⟩ := hn
  constructor
  case configFixed => exact hc
  case lengths => exact hl
  case cmdLength => exact hm
  case cmdValue => exact hv
  case bitBound => exact hb
  case repBound => exact hr
  case queueBound => simp [hoq]
  case queueLegal => simp [hoq]
  case quiet => exact fun _ => ⟨hoq, htr, he⟩
  all_goals
    generalize s.seqState = q at hq
    cases q <;> simp_all [SeqState.beforePin, SeqState.holdsPin, SeqState.sending]

/-- `CMD` of a validated request has 32 symbols (R126). -/
theorem State.concatenation_length {s : State} (h : s.firstWrongField = none) :
    s.concatenation.length = 32 := by
  obtain ⟨hs, hg, ho, hr⟩ := s.firstWrongField_eq_none.mp h
  simp [State.concatenation, hs, hg, ho, hr]

theorem Inv.notOwned {s : State} (hi : Inv s) (hq : s.seqState.holdsPin = false) :
    s.owned = false := by
  rw [hi.owned, hq]

/-- Reset, with any configuration in which `N_REPEAT >= 1`. -/
theorem inv_reset {c : Params} (hc : 1 ≤ c.nRepeat) : Inv { State.reset with cfg := c } :=
  inv_of_beforePin rfl hc ⟨rfl, rfl, rfl⟩ rfl nofun rfl nofun (Nat.zero_le 32) (Nat.zero_le _)

theorem Inv.latch {s : State} (hi : Inv s) (hq : s.seqState = .idle) (r : Request) :
    Inv (s.latch r) := by
  obtain ⟨ho, ht, -⟩ := hi.quiet (by rw [hq]; rfl)
  exact inv_of_beforePin rfl hi.configFixed ⟨ho, ht, rfl⟩ (hi.notOwned (by rw [hq]; rfl)) nofun
    hi.cmdLength nofun hi.bitBound hi.repBound

theorem Inv.accepts {s : State} (hi : Inv s) (hq : s.seqState = .validating)
    (hw : s.firstWrongField = none) : Inv (s.goTo .encoding) :=
  inv_of_beforePin rfl hi.configFixed (hi.quiet (by rw [hq]; rfl))
    (hi.notOwned (by rw [hq]; rfl)) (fun _ => hw) hi.cmdLength nofun hi.bitBound hi.repBound

theorem Inv.encodes {s : State} (hi : Inv s) (hq : s.seqState = .encoding) :
    Inv { s with cmd := s.concatenation, seqState := .acquire } :=
  have hw := hi.lengths (by rw [hq]; rfl)
  inv_of_beforePin rfl hi.configFixed (hi.quiet (by rw [hq]; rfl))
    (hi.notOwned (by rw [hq]; rfl)) (fun _ => hw) (State.concatenation_length hw) (fun _ => rfl)
    hi.bitBound hi.repBound

theorem Inv.rejects {s : State} (hi : Inv s) (hq : s.seqState = .validating) (f : Field) (n : Nat) :
    Inv (specRejected s f n) := by
  obtain ⟨ho, ht, -⟩ := hi.quiet (by rw [hq]; rfl)
  have hrel : (specRejected s f n).outq = [] ∨ (specRejected s f n).outq = [0xC00000000#36] := by
    simp only [specRejected, ho]
    cases s.cfg.releaseOnReject <;> simp
  exact
    { configFixed := hi.configFixed
      queueBound := by rcases hrel with h | h <;> simp [h]
      queueLegal := by rcases hrel with h | h <;> simp [h, legalWord]
      quiet := nofun
      owned := hi.notOwned (by rw [hq]; rfl)
      lengths := nofun
      cmdLength := hi.cmdLength
      cmdValue := nofun
      bitBound := hi.bitBound
      bitLoop := nofun
      checked := nofun
      repBound := hi.repBound
      repLoop := nofun
      noError := nofun
      rejectedErr := iff_of_true rfl rfl
      abortErr := nofun
      configureFirst := nofun
      lowIssued := nofun
      releaseIssued := nofun
      rejectedIssued := fun _ => by
        have hi' : (specRejected s f n).issued = (specRejected s f n).outq := by
          simp [State.issued, specRejected, ht]
        rwa [hi'] }

end Sys2Proof.Machine

namespace Sys2Proof

/-! ### Classes of sequencer states -/

theorem SeqState.holdsPin_of_sending {q : SeqState} (h : q.sending = true) : q.holdsPin = true := by
  cases q <;> simp_all [SeqState.sending, SeqState.holdsPin]

theorem SeqState.encoded_of_holdsPin {q : SeqState} (h : q.holdsPin = true) :
    q.encoded = true ∧ q.validated = true ∧ q.beforePin = false ∧ q ≠ .rejected ∧ q ≠ .done := by
  cases q <;> simp_all [SeqState.holdsPin, SeqState.encoded, SeqState.validated, SeqState.beforePin]

/-- Past `ACQUIRE`, a state that a failure leaves holds the pin. -/
theorem SeqState.holdsPin_of_moves {q : SeqState} (hs : q.staysOnFailure = false)
    (hp : q.beforePin = false) : q.holdsPin = true := by
  cases q <;> simp_all [SeqState.staysOnFailure, SeqState.beforePin, SeqState.holdsPin]

theorem SeqState.not_sending_of_stays {q : SeqState} (hs : q.staysOnFailure = true) :
    q.sending = false ∧ q.beforePin = false ∧ q ≠ .abort := by
  cases q <;> simp_all [SeqState.staysOnFailure, SeqState.beforePin, SeqState.sending]

end Sys2Proof

namespace Sys2Proof.Machine

/-! ### The states that hold the pin -/

theorem legalWord_setLevel (l : Level) : legalWord (setLevelWord l) = true := by
  cases l <;> decide

theorem legalWord_holdFor (d : Duration) : legalWord (holdForWord d) = true := by
  simp [legalWord]

theorem State.issued_emit (s : State) (w : SinkWord) : (s.emit w).issued = s.issued ++ [w] := by
  simp [State.issued]

theorem State.issued_pulse (s : State) (l : Level) (d : Duration) :
    (s.pulse l d).issued = s.issued ++ [setLevelWord l, holdForWord d] := by
  simp [State.issued]

/-- A pulse is sent by a state of the pre-silence or the frame. -/
theorem PulseMove.source {s : State} {q : SeqState} {r b : Nat} {x : Bool}
    (hm : PulseMove s q r b x) : s.seqState.sending = true := by
  cases hm <;> simp [*, SeqState.sending]

/-- After a pulse the frame goes on or the cleanup begins. -/
theorem PulseMove.target {s : State} {q : SeqState} {r b : Nat} {x : Bool}
    (hm : PulseMove s q r b x) : q.sending = true ∨ q = .cleanupLow := by
  cases hm <;> simp [SeqState.sending]

theorem PulseMove.bit_le {s : State} {q : SeqState} {r b : Nat} {x : Bool} (hi : Inv s)
    (hm : PulseMove s q r b x) : b ≤ 32 ∧ (q = .bitHigh ∨ q = .bitLow → b < 32) := by
  have hb := hi.bitBound
  cases hm with
  | bitHigh hq => exact ⟨hb, fun _ => hi.bitLoop (.inl hq)⟩
  | firstLow hq => exact ⟨hb, fun _ => hi.bitLoop (.inr hq)⟩
  | secondLow _ _ hb => exact ⟨hb.le, fun _ => hb⟩
  | lastLow _ _ hb => exact ⟨hb.le, by simp⟩
  | agc2 => simp
  | _ => exact ⟨hb, by simp⟩

theorem PulseMove.rep_le {s : State} {q : SeqState} {r b : Nat} {x : Bool} (hi : Inv s)
    (hm : PulseMove s q r b x) : r ≤ s.cfg.nRepeat ∧ (q.sending = true → r < s.cfg.nRepeat) := by
  have hr := hi.repLoop hm.source
  cases hm with
  | silence _ hn => exact ⟨hr, fun _ => hn⟩
  | lastSilence => exact ⟨hr, nofun⟩
  | _ => exact ⟨hr.le, fun _ => hr⟩

/-- The symbol sent in `BIT_LOW`, or in the second wire bit, was found valid (R143). -/
theorem PulseMove.checked {s : State} {q : SeqState} {r b : Nat} {x : Bool} (hi : Inv s)
    (hm : PulseMove s q r b x) (hq : q = .bitLow ∨ (q = .bitHigh ∧ x = true)) :
    s.symbolValid ∧ b = s.bit := by
  cases hm with
  | bitHigh _ hv => exact ⟨hv, rfl⟩
  | firstLow hl => exact ⟨hi.checked (.inl hl), rfl⟩
  | _ => simp at hq

theorem Inv.pulses {s : State} {q : SeqState} {r b : Nat} {x : Bool} (hi : Inv s)
    (ho : s.outq = []) (hm : PulseMove s q r b x) (l : Level) (d : Duration) :
    Inv { s.pulse l d with seqState := q, rep := r, bit := b, half := x } := by
  have hs := SeqState.holdsPin_of_sending hm.source
  obtain ⟨hse, hsv, -, -, -⟩ := SeqState.encoded_of_holdsPin hs
  have hq : q.holdsPin = true := by
    rcases hm.target with h | rfl
    · exact SeqState.holdsPin_of_sending h
    · rfl
  obtain ⟨-, -, hqp, hqr, hqd⟩ := SeqState.encoded_of_holdsPin hq
  have he : s.err = .none := hi.noError hm.source
  have hne : q ≠ .abort ∧ q ≠ .cleanupRelease := by cases hm <;> simp
  exact
    { hi with
      queueBound := by simp [ho]
      queueLegal := by simp [ho, legalWord_setLevel, legalWord_holdFor]
      quiet := by simp [hqp]
      owned := by simp [hi.owned, hs, hq]
      lengths := fun _ => hi.lengths hsv
      cmdValue := fun _ => hi.cmdValue hse
      bitBound := (hm.bit_le hi).1
      bitLoop := (hm.bit_le hi).2
      checked := fun h => by
        obtain ⟨hv, rfl⟩ := hm.checked hi h
        exact hv
      repBound := (hm.rep_le hi).1
      repLoop := (hm.rep_le hi).2
      noError := fun _ => he
      rejectedErr := by simp [hqr, he]
      abortErr := fun h => absurd h hne.1
      configureFirst := fun _ => by
        show (s.pulse l d).issued.head? = _
        rw [State.issued_pulse, List.head?_append, hi.configureFirst (.inl hs)]
        rfl
      lowIssued := fun h => absurd h hne.2
      releaseIssued := fun h => absurd h hqd
      rejectedIssued := fun h => absurd h hqr }


theorem Inv.acquires {s : State} {q : SeqState} (hi : Inv s) (hs : s.seqState = .acquire)
    (hq : q = .preSilence ∨ q = .agc1) :
    Inv { s.emit configureWord with owned := true, rep := 0, seqState := q } := by
  obtain ⟨ho, ht, he⟩ := hi.quiet (by rw [hs]; rfl)
  have hfirst : (s.emit configureWord).issued.head? = some 0x000000000#36 := by
    simp [State.issued, ho, ht]
  have hw := hi.lengths (by rw [hs]; rfl)
  have hc := hi.cmdValue (by rw [hs]; rfl)
  have hn := hi.configFixed
  rcases hq with rfl | rfl <;> exact
    { hi with
      queueBound := by simp [ho]
      queueLegal := by simp [ho, legalWord]
      quiet := nofun
      owned := rfl
      lengths := fun _ => hw
      cmdValue := fun _ => hc
      bitLoop := nofun
      checked := nofun
      repBound := Nat.zero_le _
      repLoop := fun _ => hn
      noError := fun _ => he
      rejectedErr := iff_of_false nofun (by simp [he])
      abortErr := nofun
      configureFirst := fun _ => hfirst
      lowIssued := nofun
      releaseIssued := nofun
      rejectedIssued := nofun }

theorem Inv.findsDefect {s : State} (hi : Inv s) (ho : s.outq = []) (hs : s.seqState = .bitHigh)
    (p : BitVec 5) (c : Symbol) :
    Inv { s with err := .defect, errPos := p, errSym := c, seqState := .abort } :=
  have hw := hi.lengths (by rw [hs]; rfl)
  have hc := hi.cmdValue (by rw [hs]; rfl)
  have hown : s.owned = true := by rw [hi.owned, hs]; rfl
  have hfirst := hi.configureFirst (.inl (by rw [hs]; rfl))
  { hi with
    quiet := nofun
    owned := hown
    lengths := fun _ => hw
    cmdValue := fun _ => hc
    bitLoop := nofun
    checked := nofun
    repLoop := nofun
    noError := nofun
    rejectedErr := iff_of_false nofun nofun
    abortErr := fun _ => ⟨rfl, ho⟩
    configureFirst := fun _ => hfirst
    lowIssued := nofun
    releaseIssued := nofun
    rejectedIssued := nofun }

/-- A sink operation issued on the way out of a session: `ABORT` and the cleanup pair (R148,
R175, R176). -/
theorem Inv.cleansUp {s : State} {q : SeqState} {w : SinkWord} {own : Bool} (hi : Inv s)
    (ho : s.outq = []) (hs : s.seqState.holdsPin = true) (hown : own = q.holdsPin)
    (hw : legalWord w = true)
    (hq : q = .cleanupLow ∨
      q = .cleanupRelease ∧ w = 0x400000000#36 ∨
      q = .done ∧ w = 0xC00000000#36 ∧ s.seqState = .cleanupRelease) :
    Inv { s.emit w with owned := own, seqState := q } := by
  obtain ⟨hse, hsv, -, hsr, -⟩ := SeqState.encoded_of_holdsPin hs
  have hlen := hi.lengths hsv
  have hcmd := hi.cmdValue hse
  have herr : s.err ≠ .rejected := fun h => hsr (hi.rejectedErr.mpr h)
  have hfirst : (s.emit w).issued.head? = some 0x000000000#36 := by
    rw [State.issued_emit, List.head?_append, hi.configureFirst (.inl hs)]
    rfl
  have hbound : (s.emit w).outq.length ≤ 1 := by simp [ho]
  have hlow (h : q = .cleanupRelease) :
      ∃ before, (s.emit w).issued = before ++ [0x400000000#36] := by
    obtain rfl : w = 0x400000000#36 := by simpa [h] using hq
    exact ⟨s.issued, s.issued_emit _⟩
  have hrel (h : q = .done) :
      ∃ before, (s.emit w).issued = before ++ [0x400000000#36, 0xC00000000#36] := by
    obtain ⟨rfl, hr⟩ : w = 0xC00000000#36 ∧ s.seqState = .cleanupRelease := by simpa [h] using hq
    obtain ⟨-, before, hb⟩ := hi.lowIssued hr
    exact ⟨before, by rw [State.issued_emit, hb, List.append_assoc]; rfl⟩
  have hclass : q.beforePin = false ∧ q.sending = false ∧ q ≠ .bitHigh ∧ q ≠ .bitLow ∧
      q ≠ .rejected ∧ q ≠ .abort := by
    rcases hq with rfl | ⟨rfl, -⟩ | ⟨rfl, -⟩ <;> simp [SeqState.beforePin, SeqState.sending]
  obtain ⟨hqp, hqs, hqh, hql, hqr, hqa⟩ := hclass
  exact
    { hi with
      queueBound := hbound.trans one_le_two
      queueLegal := by simp [ho, hw]
      quiet := by simp [hqp]
      owned := hown
      lengths := fun _ => hlen
      cmdValue := fun _ => hcmd
      bitLoop := by simp [hqh, hql]
      checked := by simp [hqh, hql]
      repLoop := by simp [hqs]
      noError := by simp [hqs]
      rejectedErr := iff_of_false hqr herr
      abortErr := fun h => absurd h hqa
      configureFirst := fun _ => hfirst
      lowIssued := fun h => ⟨hbound, hlow h⟩
      releaseIssued := fun h => ⟨hbound, hrel h⟩
      rejectedIssued := fun h => absurd h hqr }

/-- Every move of the sequencer keeps the invariant. -/
theorem SeqMove.inv {s t : State} (hi : Inv s) (ho : s.outq = []) (hm : SeqMove s t) : Inv t := by
  have hown (h : s.seqState.holdsPin = true) : s.owned = true := by rw [hi.owned, h]
  cases hm with
  | rests => exact hi
  | rejects hq => exact hi.rejects hq _ _
  | accepts hq hw => exact hi.accepts hq hw
  | encodes hq => exact hi.encodes hq
  | acquires hq =>
    refine hi.acquires hq ?_
    split
    · exact .inl rfl
    · exact .inr rfl
  | pulses l d hm => exact hi.pulses ho hm l d
  | findsDefect c hq => exact hi.findsDefect ho hq _ c
  | aborts hq =>
    have hp : s.seqState.holdsPin = true := by rw [hq]; rfl
    exact hi.cleansUp ho hp (hown hp) (legalWord_setLevel .low) (.inl rfl)
  | lowers hq =>
    have hp : s.seqState.holdsPin = true := by rw [hq]; rfl
    exact hi.cleansUp ho hp (hown hp) (legalWord_setLevel .low)
      (.inr (.inl ⟨rfl, setLevelWord_low⟩))
  | releases hq =>
    have hp : s.seqState.holdsPin = true := by rw [hq]; rfl
    exact hi.cleansUp ho hp rfl (by decide : legalWord releaseWord = true)
      (.inr (.inr ⟨rfl, releaseWord_eq, hq⟩))

end Sys2Proof.Machine

namespace Sys2Proof.Machine

/-! ### An answer of the PulseSink keeps the invariant -/

/-- A completed operation moves from the queue to the trace: what has been issued stays the same. -/
theorem issued_completed {s : State} {w : SinkWord} {q : List SinkWord} (ho : s.outq = w :: q)
    (a : Answer) : (s.trace ++ [(w, a)]).map Prod.fst ++ q = s.issued := by
  simp [State.issued, ho]

theorem Inv.completes {s : State} {w : SinkWord} {q : List SinkWord} (hi : Inv s)
    (ho : s.outq = w :: q) (a : Answer) :
    Inv { s with trace := s.trace ++ [(w, a)], outq := q } := by
  have hissued : State.issued { s with trace := s.trace ++ [(w, a)], outq := q } = s.issued :=
    issued_completed ho a
  have hlen : q.length ≤ s.outq.length := by simp [ho]
  have hne : s.outq ≠ [] := by simp [ho]
  exact
    { hi with
      queueBound := hlen.trans hi.queueBound
      queueLegal := fun v hv => hi.queueLegal v (by rw [ho]; exact List.mem_cons_of_mem w hv)
      quiet := fun h => absurd (hi.quiet h).1 hne
      abortErr := fun h => absurd (hi.abortErr h).2 hne
      configureFirst := fun h => by rw [hissued]; exact hi.configureFirst h
      lowIssued := fun h => by
        obtain ⟨hl, hb⟩ := hi.lowIssued h
        exact ⟨hlen.trans hl, by rw [hissued]; exact hb⟩
      releaseIssued := fun h => by
        obtain ⟨hl, hb⟩ := hi.releaseIssued h
        exact ⟨hlen.trans hl, by rw [hissued]; exact hb⟩
      rejectedIssued := fun h => by rw [hissued]; exact hi.rejectedIssued h }

/-- In a state that a failure leaves alone, at most one operation is outstanding. -/
theorem Inv.queue_of_stays {s : State} (hi : Inv s) (hs : s.seqState.staysOnFailure = true) :
    s.outq.length ≤ 1 := by
  cases hq : s.seqState <;> simp only [hq, SeqState.staysOnFailure, Bool.false_eq_true] at hs
  case cleanupRelease => exact (hi.lowIssued hq).1
  case done => exact (hi.releaseIssued hq).1
  case rejected =>
    have hl : s.outq.length ≤ s.issued.length := by simp [State.issued]
    rcases hi.rejectedIssued hq with h | h <;> rw [h] at hl
    · exact hl.trans (Nat.zero_le 1)
    · exact hl

/-- The error a failure leaves: the first of the session (R224). -/
theorem failErr_eq_rejected_iff (e : ErrCode) :
    (if e = .none then ErrCode.sinkFail else e) = .rejected ↔ e = .rejected := by
  cases e <;> simp

theorem specFailure_of_stays {s : State} (hs : s.seqState.staysOnFailure = true) (w : SinkWord) :
    specFailure s w =
      { s with
        err := if s.err = .none then .sinkFail else s.err
        errOp := if s.err = .none then w else s.errOp
        outq := [] } := by
  unfold specFailure
  rw [if_pos]
  revert hs
  cases s.seqState <;> simp [SeqState.staysOnFailure]

theorem specFailure_of_moves {s : State} (hs : s.seqState.staysOnFailure = false) (w : SinkWord) :
    specFailure s w =
      { s with
        err := if s.err = .none then .sinkFail else s.err
        errOp := if s.err = .none then w else s.errOp
        outq := []
        seqState := .cleanupLow } := by
  unfold specFailure
  rw [if_neg]
  revert hs
  cases s.seqState <;> simp [SeqState.staysOnFailure]

/-- A failure in a state that it leaves alone. -/
theorem Inv.failsInPlace {s : State} (hi : Inv s) (ho : s.outq = [])
    (hs : s.seqState.staysOnFailure = true) (w : SinkWord) : Inv (specFailure s w) := by
  obtain ⟨hns, hnp, hna⟩ := SeqState.not_sending_of_stays hs
  rw [specFailure_of_stays hs, ← ho]
  exact
    { hi with
      quiet := by simp [hnp]
      noError := by simp [hns]
      rejectedErr := hi.rejectedErr.trans (failErr_eq_rejected_iff s.err).symm
      abortErr := fun h => absurd h hna }

/-- A failure that sends the session to its cleanup (R227). -/
theorem Inv.failsToCleanup {s : State} (hi : Inv s) (ht : s.trace ≠ [])
    (hs : s.seqState.staysOnFailure = false) (w : SinkWord) : Inv (specFailure s w) := by
  have hp : s.seqState.beforePin = false := by
    rw [Bool.eq_false_iff]
    exact fun h => ht (hi.quiet h).2.1
  have hh := SeqState.holdsPin_of_moves hs hp
  obtain ⟨hse, hsv, -, hsr, -⟩ := SeqState.encoded_of_holdsPin hh
  have hown : s.owned = true := by rw [hi.owned, hh]
  have hlen := hi.lengths hsv
  have hcmd := hi.cmdValue hse
  have herr : s.err ≠ .rejected := fun h => hsr (hi.rejectedErr.mpr h)
  have hfirst : (s.trace.map Prod.fst ++ []).head? = some 0x000000000#36 := by
    obtain ⟨e, es, he⟩ := List.exists_cons_of_ne_nil ht
    have h := hi.configureFirst (.inl hh)
    simp only [State.issued, he, List.map_cons, List.cons_append, List.head?_cons] at h ⊢
    exact h
  rw [specFailure_of_moves hs]
  exact
    { hi with
      queueBound := Nat.zero_le 2
      queueLegal := nofun
      quiet := nofun
      owned := hown
      lengths := fun _ => hlen
      cmdValue := fun _ => hcmd
      bitLoop := nofun
      checked := nofun
      repLoop := nofun
      noError := nofun
      rejectedErr := iff_of_false nofun (mt (failErr_eq_rejected_iff s.err).mp herr)
      abortErr := nofun
      configureFirst := fun _ => hfirst
      lowIssued := nofun
      releaseIssued := nofun
      rejectedIssued := nofun }

theorem Inv.answered {s : State} {w : SinkWord} {q : List SinkWord} (hi : Inv s)
    (ho : s.outq = w :: q) (a : Answer) (rest : List Answer) (d : Dir) (l : Line) (n : Nat) :
    Inv (s.answered w q a rest d l n) := by
  have hc := (hi.completes ho a).environment s.inputs rest d l n
  cases a with
  | ok => exact hc
  | fail =>
    simp only [State.answered, State.raise_sinkFailure]
    cases hs : s.seqState.staysOnFailure with
    | true =>
      have hq : q = [] := by
        have h := hi.queue_of_stays hs
        rw [ho, List.length_cons] at h
        exact List.eq_nil_of_length_eq_zero (by omega)
      exact hc.failsInPlace hq hs w
    | false => exact hc.failsToCleanup (by simp) hs w

/-- Before the first sink operation of a session the queue is empty. -/
theorem Inv.not_beforePin_of_queue {s : State} {w : SinkWord} {q : List SinkWord} (hi : Inv s)
    (ho : s.outq = w :: q) : s.seqState.beforePin = false := by
  rw [Bool.eq_false_iff]
  exact fun hp => by simp [(hi.quiet hp).1] at ho

/-! ### Every step keeps the invariant -/

/-- A move of the block from a state with the invariant, while no request stands at the port. -/
theorem blockMove_cases_of_inv {s t : State} (hi : Inv s)
    (hr : ∀ r rest, s.inputs ≠ .request r :: rest) (h : blockMove s = .next t) :
    (∃ w q, s.outq = w :: q ∧ t = s) ∨
      (∃ w q a rest d l n, s.outq = w :: q ∧ t = s.answered w q a rest d l n) ∨
      (s.outq = [] ∧ SeqMove s t) := by
  rcases blockMove_cases h with ⟨w, q, ho, -, rfl⟩ |
      ⟨w, q, a, rest, d, l, n, ho, -, -, rfl⟩ | ⟨ho, he⟩
  · exact .inl ⟨w, q, ho, rfl⟩
  · exact .inr (.inl ⟨w, q, a, rest, d, l, n, ho, rfl⟩)
  · obtain ⟨u, hu, hm⟩ := seqMove_of_exec hi hr
    obtain rfl : u = t := Host.Outcome.next.inj (hu.symm.trans he)
    exact .inr (.inr ⟨ho, hm⟩)

theorem inv_of_blockMove {s t : State} (hi : Inv s)
    (hr : ∀ r rest, s.inputs ≠ .request r :: rest) (h : blockMove s = .next t) : Inv t := by
  rcases blockMove_cases_of_inv hi hr h with ⟨w, q, -, rfl⟩ | ⟨w, q, a, rest, d, l, n, ho, rfl⟩ |
      ⟨ho, hm⟩
  · exact hi
  · exact hi.answered ho a rest d l n
  · exact hm.inv hi ho

/-- With no input or a wait at the port, no request stands there. -/
theorem no_request_of_waits {s : State} {rest : List EnvMove}
    (h : s.inputs = [] ∧ rest = [] ∨ s.inputs = .wait :: rest) (r : Request)
    (rest' : List EnvMove) : s.inputs ≠ .request r :: rest' := by
  rcases h with ⟨h, -⟩ | h <;> simp [h]

theorem inv_of_step {s t : State} (hi : Inv s) (h : step s = .next t) : Inv t := by
  rcases step_cases h with ⟨f, rest, -, rfl⟩ | ⟨r, rest, -, hq, rfl⟩ | ⟨m, rest, -, rfl, -⟩ |
      ⟨d, l, rest, -, rfl⟩ | ⟨u, rest, hw, hb, rfl⟩
  · obtain ⟨d, l, n, hr⟩ := State.applyReset_eq { s with inputs := rest } f
    rw [hr]
    exact (inv_reset hi.configFixed).environment _ _ d l n
  · exact (hi.setInputs rest).latch hq r
  · exact hi.setInputs rest
  · exact hi.environment rest s.answers d l s.draws
  · exact (inv_of_blockMove hi (no_request_of_waits hw) hb).setInputs rest

/-- Settles O38: reset, the request and the sink answers by their own lemmas, the sequencer by
`SeqMove`. -/
theorem stepKeepsTheSessionShape : Obligations.StepKeepsTheSessionShape := by
  unfold Obligations.StepKeepsTheSessionShape
  exact fun _ _ hi h => inv_of_step hi h

/-- Settles O39: the reset of a block whose configuration is the one of `Config`. -/
theorem resetHasTheSessionShape : Obligations.ResetHasTheSessionShape := by
  unfold Obligations.ResetHasTheSessionShape
  exact inv_reset (c := Config.params) (Nat.le_add_left 1 Config.nRepeatPred)

end Sys2Proof.Machine

namespace Sys2Proof

/-- Every register that holds a value in state `q` holds one in state `p` already. -/
def SeqState.covers (p q : SeqState) : Bool :=
  (!q.latched || p.latched) && (!q.encoded || p.encoded) && (!q.repWritten || p.repWritten) &&
    (!q.bitWritten || p.bitWritten)

theorem SeqState.covers_iff (p q : SeqState) :
    p.covers q = true ↔
      (q.latched = true → p.latched = true) ∧ (q.encoded = true → p.encoded = true) ∧
        (q.repWritten = true → p.repWritten = true) ∧
        (q.bitWritten = true → p.bitWritten = true) := by
  simp only [SeqState.covers, Bool.and_eq_true, Bool.or_eq_true, Bool.not_eq_true',
    ← Bool.not_eq_true, ← imp_iff_not_or, and_assoc]

/-- A sink failure sends the sequencer to its cleanup or leaves it where it is, past `ACQUIRE`
(R227). -/
theorem SeqState.covers_afterFailure {q : SeqState} (hq : q.beforePin = false) :
    q.covers (if q.staysOnFailure then q else .cleanupLow) = true := by
  cases q <;> simp_all [SeqState.beforePin, SeqState.staysOnFailure, SeqState.covers,
    SeqState.latched, SeqState.encoded, SeqState.repWritten, SeqState.bitWritten]

namespace Machine

/-! ### Writes that keep two states equal in all that holds a value (R39) -/

section
variable {s t : State}

theorem SameWritten.goTo {q : SeqState} (h : SameWritten s t) (hq : s.seqState.covers q = true) :
    SameWritten (s.goTo q) (t.goTo q) :=
  have ⟨hl, hc, hr, hb⟩ := (SeqState.covers_iff _ _).mp hq
  { h with
    position := rfl
    latched := fun w => h.latched (hl w)
    cmd := fun w => h.cmd (hc w)
    rep := fun w => h.rep (hr w)
    bit := fun w => h.bit (hb w) }

theorem SameWritten.emit (h : SameWritten s t) (w : SinkWord) :
    SameWritten (s.emit w) (t.emit w) :=
  { h with outq := by simp [h.outq] }

theorem SameWritten.pulse (h : SameWritten s t) (l : Level) {d e : Duration} (hd : d = e) :
    SameWritten (s.pulse l d) (t.pulse l e) := by
  subst hd
  exact (h.emit _).emit _

/-- A pulse of a duration of the profile, and the move to the next state. -/
theorem SameWritten.pulseTo {q : SeqState} (h : SameWritten s t)
    (hl : s.seqState.latched = true) (hq : s.seqState.covers q = true) (l : Level)
    (d : TimingProfile → Duration) :
    SameWritten ((s.pulse l (d s.profile)).goTo q) ((t.pulse l (d t.profile)).goTo q) := by
  obtain ⟨-, -, -, -, hp⟩ := h.latched hl
  exact (h.pulse l (congrArg d hp)).goTo hq

theorem SameWritten.drawn (h : SameWritten s t) : SameWritten s.drawn t.drawn :=
  { h with draws := by simp [h.draws] }

theorem SameWritten.setRep (h : SameWritten s t) {m n : Nat} (hm : m = n) :
    SameWritten { s with rep := m } { t with rep := n } :=
  { h with rep := fun _ => hm }

theorem SameWritten.setBit (h : SameWritten s t) {m n : Nat} (hm : m = n) (x : Bool) :
    SameWritten { s with bit := m, half := x } { t with bit := n, half := x } :=
  { h with bit := fun _ => ⟨hm, rfl⟩ }

theorem SameWritten.setOwned (h : SameWritten s t) (x : Bool) :
    SameWritten { s with owned := x } { t with owned := x } :=
  { h with owned := rfl }

theorem SameWritten.setInputs (h : SameWritten s t) (is : List EnvMove) :
    SameWritten { s with inputs := is } { t with inputs := is } :=
  { h with inputs := rfl }

theorem SameWritten.setAnswers (h : SameWritten s t) (as : List Answer) :
    SameWritten { s with answers := as } { t with answers := as } :=
  { h with answers := rfl }

theorem SameWritten.complete (h : SameWritten s t) (w : SinkWord) (a : Answer) :
    SameWritten (s.complete w a) (t.complete w a) :=
  { h with outq := by simp [h.outq], trace := by simp [h.trace] }

/-- The first error writes its own details in both states; a later one writes nothing (R224). -/
theorem SameWritten.record (h : SameWritten s t) (e : ErrEvent) :
    SameWritten (s.record e) (t.record e) := by
  by_cases hs : s.err = .none
  · have ht : t.err = .none := h.err ▸ hs
    rw [State.record_of_none hs, State.record_of_none ht]
    cases e <;> exact
      { h with
        err := rfl
        rejectedDetail := by simp
        defectDetail := by simp
        sinkDetail := by simp }
  · have ht : t.err ≠ .none := h.err ▸ hs
    rwa [State.record_of_err hs, State.record_of_err ht]

theorem SameWritten.sinkFailure (h : SameWritten s t) (hq : s.seqState.beforePin = false)
    (w : SinkWord) : SameWritten (s.raise (.sinkFailure w)) (t.raise (.sinkFailure w)) := by
  have hrec := h.record (.sinkFailure w)
  obtain ⟨_, _, _, _, _, _, hs⟩ := s.record_status_only (.sinkFailure w)
  have hmoved := hrec.goTo (by rw [hs]; exact SeqState.covers_afterFailure hq)
  unfold State.raise State.divert
  rw [← hrec.position, hs] at *
  exact { hmoved with outq := rfl }

theorem SameWritten.bitHighOn (h : SameWritten s t) (hq : s.seqState = .bitHigh) (c : Symbol) :
    SameWritten (bitHighOn c s) (bitHighOn c t) := by
  obtain ⟨hb, hh⟩ := h.bit (by rw [hq]; rfl)
  unfold Machine.bitHighOn
  rw [← hh, ← hb]
  split
  · have hrec := h.record (.protocolDefect s.bit c)
    obtain ⟨_, _, _, _, _, _, hs⟩ := s.record_status_only (.protocolDefect s.bit c)
    exact hrec.goTo (by rw [hs, hq]; rfl)
  · exact h.pulseTo (by rw [hq]; rfl) (by rw [hq]; rfl) .high TimingProfile.tHigh

theorem SameWritten.lowHoldOf (h : SameWritten s t) (hq : s.seqState = .bitLow) (c : Symbol) :
    SameWritten (lowHoldOf c s) (lowHoldOf c t) := by
  obtain ⟨-, hh⟩ := h.bit (by rw [hq]; rfl)
  obtain ⟨-, -, -, -, hp⟩ := h.latched (by rw [hq]; rfl)
  unfold Machine.lowHoldOf
  rw [← hh, ← h.draws]
  split
  · exact h.pulse .low (by rw [hp])
  · exact (h.pulse .low (by rw [hp])).drawn

theorem SameWritten.advanceBit (h : SameWritten s t) (hq : s.seqState = .bitLow) :
    SameWritten (advanceBit s) (advanceBit t) := by
  obtain ⟨hb, hh⟩ := h.bit (by rw [hq]; rfl)
  unfold Machine.advanceBit
  rw [← hh, ← hb]
  split
  · exact (h.setBit rfl true).goTo (by rw [hq]; rfl)
  · refine (h.setBit rfl false).goTo ?_
    split <;> (rw [hq]; rfl)

theorem SameWritten.currentSymbol (h : SameWritten s t)
    (hq : s.seqState = .bitHigh ∨ s.seqState = .bitLow) :
    s.currentSymbol = t.currentSymbol ∧ s.bit = t.bit := by
  have hw : s.seqState.encoded = true ∧ s.seqState.bitWritten = true := by
    rcases hq with hq | hq <;> rw [hq] <;> exact ⟨rfl, rfl⟩
  obtain ⟨hb, -⟩ := h.bit hw.2
  exact ⟨by rw [State.currentSymbol, State.currentSymbol, h.cmd hw.1, hb], hb⟩

theorem SameWritten.firstWrongField (h : SameWritten s t) (hq : s.seqState.latched = true) :
    s.firstWrongField = t.firstWrongField := by
  obtain ⟨hs, hg, ho, hr, -⟩ := h.latched hq
  exact State.firstWrongField_congr hs hg ho hr

theorem SameWritten.releaseIfConfigured (h : SameWritten s t) :
    SameWritten s.releaseIfConfigured t.releaseIfConfigured := by
  unfold State.releaseIfConfigured
  rw [← h.cfg]
  split
  · exact h.emit _
  · exact h

/-! ### The steps of the sequencer -/

theorem sameOutcome_execValidating (h : SameWritten s t) (hq : s.seqState = .validating) :
    SameOutcome (execValidating s) (execValidating t) := by
  unfold execValidating
  rw [← h.firstWrongField (by rw [hq]; rfl)]
  split
  · rename_i f n _
    obtain ⟨_, _, _, _, _, _, hs⟩ := s.record_status_only (.validationError f n)
    exact ((h.record (.validationError f n)).goTo (by rw [hs, hq]; rfl)).releaseIfConfigured
  · exact h.goTo (by rw [hq]; rfl)

theorem sameOutcome_execEncoding (h : SameWritten s t) (hq : s.seqState = .encoding) :
    SameOutcome (execEncoding s) (execEncoding t) := by
  have hf := h.latched (by rw [hq]; rfl)
  have ⟨hs, hg, ho, hr, _⟩ := hf
  exact
    { h with
      position := rfl
      latched := fun _ => hf
      cmd := fun _ => by simp [State.concatenation, hs, hg, ho, hr]
      rep := nofun
      bit := nofun }

theorem sameOutcome_execAcquire (h : SameWritten s t) (hq : s.seqState = .acquire) :
    SameOutcome (execAcquire s) (execAcquire t) := by
  have hf := h.latched (by rw [hq]; rfl)
  have hc := h.cmd (by rw [hq]; rfl)
  have ⟨_, _, _, _, hp⟩ := hf
  unfold execAcquire
  rw [← hp]
  exact
    { h.emit configureWord with
      position := rfl
      latched := fun _ => hf
      cmd := fun _ => hc
      rep := fun _ => rfl
      bit := by split <;> nofun
      owned := rfl }

theorem sameOutcome_execAgc2 (h : SameWritten s t) (hq : s.seqState = .agc2) :
    SameOutcome (execAgc2 s) (execAgc2 t) := by
  have hf := h.latched (by rw [hq]; rfl)
  have hc := h.cmd (by rw [hq]; rfl)
  have hr := h.rep (by rw [hq]; rfl)
  have ⟨_, _, _, _, hp⟩ := hf
  exact
    { h.pulse .low (congrArg TimingProfile.tAgc2 hp) with
      position := rfl
      latched := fun _ => hf
      cmd := fun _ => hc
      rep := fun _ => hr
      bit := fun _ => ⟨rfl, rfl⟩ }

theorem sameOutcome_execBitHigh (h : SameWritten s t) (hq : s.seqState = .bitHigh) :
    SameOutcome (execBitHigh s) (execBitHigh t) := by
  obtain ⟨hc, hb⟩ := h.currentSymbol (.inl hq)
  unfold execBitHigh
  rw [← hc, ← hb]
  split
  · exact h.bitHighOn hq _
  · rfl

theorem sameOutcome_execBitLow (h : SameWritten s t) (hq : s.seqState = .bitLow) :
    SameOutcome (execBitLow s) (execBitLow t) := by
  obtain ⟨hc, hb⟩ := h.currentSymbol (.inr hq)
  unfold execBitLow
  rw [← hc, ← hb]
  split
  · rename_i c _
    refine (h.lowHoldOf hq c).advanceBit ?_
    unfold Machine.lowHoldOf
    split <;> exact hq
  · rfl

theorem sameOutcome_execSilence (h : SameWritten s t) (hq : s.seqState = .silence) :
    SameOutcome (execSilence s) (execSilence t) := by
  have hr := h.rep (by rw [hq]; rfl)
  obtain ⟨-, -, -, -, hp⟩ := h.latched (by rw [hq]; rfl)
  unfold execSilence
  rw [← hr, ← h.cfg, ← hp]
  refine ((h.pulse .low rfl).setRep rfl).goTo ?_
  split <;> (rw [State.pulse_seqState, hq]; rfl)

/-- The sequencer does the same from two states that agree in all that holds a value. -/
theorem sameOutcome_exec (h : SameWritten s t)
    (hr : ∀ r rest, s.inputs ≠ .request r :: rest) :
    SameOutcome (exec s.seqState.instr s) (exec s.seqState.instr t) := by
  cases hq : s.seqState <;> simp only [SeqState.instr]
  case idle =>
    rw [exec_idle_waits hr, exec_idle_waits (h.inputs ▸ hr)]
    exact h
  case validating => exact sameOutcome_execValidating h hq
  case rejected => exact h
  case encoding => exact sameOutcome_execEncoding h hq
  case acquire => exact sameOutcome_execAcquire h hq
  case preSilence => exact h.pulseTo (by rw [hq]; rfl) (by rw [hq]; rfl) .low TimingProfile.tSil
  case agc1 => exact h.pulseTo (by rw [hq]; rfl) (by rw [hq]; rfl) .high TimingProfile.tAgc1
  case agc2 => exact sameOutcome_execAgc2 h hq
  case bitHigh => exact sameOutcome_execBitHigh h hq
  case bitLow => exact sameOutcome_execBitLow h hq
  case close => exact h.pulseTo (by rw [hq]; rfl) (by rw [hq]; rfl) .high TimingProfile.tHigh
  case silence => exact sameOutcome_execSilence h hq
  case abort => exact (h.emit _).goTo (by rw [State.emit_seqState, hq]; rfl)
  case cleanupLow => exact (h.emit _).goTo (by rw [State.emit_seqState, hq]; rfl)
  case cleanupRelease =>
    exact ((h.emit _).setOwned false).goTo (by rw [State.emit_seqState, hq]; rfl)
  case done => exact h

/-! ### The PulseSink -/

theorem SameWritten.setDir (h : SameWritten s t) {d e : Dir} (hd : d = e) :
    SameWritten { s with dir := d } { t with dir := e } :=
  { h with dir := hd }

theorem SameWritten.setLine (h : SameWritten s t) {k l : Line} (hl : k = l) :
    SameWritten { s with line := k } { t with line := l } :=
  { h with line := hl }

theorem SameWritten.lineAny (h : SameWritten s t) : SameWritten s.lineAny t.lineAny :=
  (h.setLine (congrArg Config.freeLine h.draws)).drawn

theorem SameWritten.performConfigure (h : SameWritten s t) (a : Answer) :
    SameWritten (performConfigure a s) (performConfigure a t) :=
  (h.setDir (by rw [h.draws])).lineAny

theorem SameWritten.performSetLevel (h : SameWritten s t) (l : Level) (a : Answer) :
    SameWritten (performSetLevel l a s) (performSetLevel l a t) := by
  unfold Machine.performSetLevel
  by_cases hc : a = .ok ∧ s.dir = .output
  · rw [if_pos hc, if_pos (h.dir ▸ hc)]
    exact h.setLine rfl
  · rw [if_neg hc, if_neg (h.dir ▸ hc)]
    exact h.lineAny

theorem SameWritten.performRelease (h : SameWritten s t) (a : Answer) :
    SameWritten (performRelease a s) (performRelease a t) := by
  unfold Machine.performRelease
  by_cases hc : s.dir = .output
  · rw [if_pos hc, if_pos (h.dir ▸ hc)]
    exact { h with dir := rfl, line := rfl }
  · rw [if_neg hc, if_neg (h.dir ▸ hc)]
    exact (h.setDir (d := .released) rfl).lineAny

theorem SameWritten.performInFlight (h : SameWritten s t) (w : SinkWord) (a : Answer) :
    SameWritten (performInFlight w a s) (performInFlight w a t) := by
  unfold Machine.performInFlight
  generalize decodeSink36 w = r
  cases r with
  | error e => exact h
  | ok i =>
    cases i with
    | configure => exact h.performConfigure a
    | setLevel l => exact h.performSetLevel l a
    | release => exact h.performRelease a
    | _ => exact h

/-- The instruction of a legal sink word, run in two states that agree in all that holds a value. -/
theorem sameOutcome_sinkStep {perform : Answer → State → State} (hp : PinOnly perform)
    (hw : ∀ a u v, SameWritten u v → SameWritten (perform a u) (perform a v))
    (h : SameWritten s t) (hq : s.seqState.beforePin = false) (w : SinkWord) :
    SameOutcome (sinkStep w perform s) (sinkStep w perform t) := by
  unfold sinkStep
  rw [← h.answers]
  split
  · exact h
  · exact (hw .ok _ _ (h.setAnswers _)).complete w .ok
  · rename_i rest _
    obtain ⟨d, l, n, hd⟩ := hp .fail { s with answers := rest }
    exact ((hw .fail _ _ (h.setAnswers rest)).complete w .fail).sinkFailure
      (by rw [hd]; exact hq) w

theorem sameOutcome_exec_sink {w : SinkWord} {i : Instr} (hd : decodeSink36 w = .ok i)
    (h : SameWritten s t) (hq : s.seqState.beforePin = false) :
    SameOutcome (exec i s) (exec i t) := by
  obtain ⟨rfl, rfl⟩ | ⟨l, rfl, rfl⟩ | ⟨d, rfl, rfl⟩ | ⟨rfl, rfl⟩ := decodeSink36_cases hd
  · exact sameOutcome_sinkStep performConfigure_pinOnly (fun a _ _ k => k.performConfigure a) h hq _
  · exact sameOutcome_sinkStep (performSetLevel_pinOnly l) (fun a _ _ k => k.performSetLevel l a)
      h hq _
  · exact sameOutcome_sinkStep (performHoldFor_pinOnly d) (fun _ _ _ k => k) h hq _
  · exact sameOutcome_sinkStep performRelease_pinOnly (fun a _ _ k => k.performRelease a) h hq _

/-! ### One step -/

theorem sameOutcome_blockMove (hi : Inv s) (h : SameWritten s t)
    (hr : ∀ r rest, s.inputs ≠ .request r :: rest) :
    SameOutcome (blockMove s) (blockMove t) := by
  cases ho : s.outq with
  | nil =>
    rw [blockMove_of_empty ho, blockMove_of_empty (h.outq ▸ ho), ← h.position]
    exact sameOutcome_exec h hr
  | cons w q =>
    have hq := hi.not_beforePin_of_queue ho
    cases hd : decodeSink36 w with
    | error e =>
      rw [blockMove_of_illegal ho hd, blockMove_of_illegal (h.outq ▸ ho) hd]
      exact rfl
    | ok i =>
      rw [blockMove_of_legal ho hd, blockMove_of_legal (h.outq ▸ ho) hd]
      exact sameOutcome_exec_sink hd h hq

theorem SameOutcome.afterMove {o p : Host.Outcome State Fault Refusal} (h : SameOutcome o p)
    (rest : List EnvMove) : SameOutcome (afterMove rest o) (afterMove rest p) := by
  cases o <;> cases p
  case next.next => exact SameWritten.setInputs h rest
  all_goals exact h

theorem SameWritten.latch (h : SameWritten s t) (r : Request) :
    SameWritten (s.latch r) (t.latch r) :=
  { h with
    position := rfl
    latched := fun _ => ⟨rfl, rfl, rfl, rfl, rfl⟩
    cmd := nofun
    rep := nofun
    bit := nofun
    err := rfl
    rejectedDetail := nofun
    defectDetail := nofun
    sinkDetail := nofun }

theorem SameWritten.applyReset (h : SameWritten s t) (f : Option Answer) :
    SameWritten (s.applyReset f) (t.applyReset f) := by
  have hs : SameWritten (s.settleInFlight f) (t.settleInFlight f) := by
    unfold State.settleInFlight
    rw [← h.outq]
    split
    · exact h.performInFlight _ _
    · exact h
  unfold State.applyReset
  exact
    { hs with
      position := rfl
      latched := nofun
      cmd := nofun
      rep := nofun
      bit := nofun
      err := rfl
      rejectedDetail := nofun
      defectDetail := nofun
      sinkDetail := nofun
      owned := rfl
      outq := rfl
      trace := rfl }

/-- Whether a host read is answered does not depend on a register that holds no value. -/
theorem SameWritten.statusValid (h : SameWritten s t) (r : HostReg) :
    s.statusValid r = t.statusValid r := by
  cases r <;> simp only [State.statusValid, State.doneFlag, h.position, h.outq, h.err]

theorem sameOutcome_step (hi : Inv s) (h : SameWritten s t) :
    SameOutcome (step s) (step t) := by
  unfold step nextMove
  rw [← h.inputs]
  split
  · exact (h.setInputs _).applyReset _
  · rename_i r rest hs
    have hready : s.ready = t.ready := by simp only [State.ready, h.position]
    rw [exec_idle_of_request hs, exec_idle_of_request (h.inputs ▸ hs), ← hready]
    split
    · exact (h.setInputs rest).latch r
    · exact h.setInputs rest
  · rename_i r rest _
    unfold State.hostRead
    rw [← h.statusValid r]
    cases s.statusValid r with
    | true => exact h.setInputs rest
    | false => exact rfl
  · exact { h with inputs := rfl, dir := rfl, line := rfl }
  · rename_i rest hw
    exact (sameOutcome_blockMove hi h (no_request_of_waits (.inr hw))).afterMove rest
  · rename_i hw
    exact sameOutcome_blockMove hi h (no_request_of_waits (.inl ⟨hw, rfl⟩))

end

/-- Settles O47: equal inputs give one kind of move, and each kind reads only what holds a value. -/
theorem unwrittenRegistersAreNeverRead : Obligations.UnwrittenRegistersAreNeverRead := by
  unfold Obligations.UnwrittenRegistersAreNeverRead
  exact fun _ _ hi h => sameOutcome_step hi h

end Machine
end Sys2Proof

namespace Sys2Proof

theorem SeqState.terminal_iff (q : SeqState) : q.terminal = true ↔ q = .rejected ∨ q = .done := by
  cases q <;> simp [SeqState.terminal]

/-- A state that holds the pin is neither `IDLE` nor terminal. -/
theorem SeqState.not_terminal_of_holdsPin {q : SeqState} (h : q.holdsPin = true) :
    q ≠ .idle ∧ q.terminal = false := by
  cases q <;> simp_all [SeqState.holdsPin, SeqState.terminal]

end Sys2Proof

namespace Sys2Proof.Machine

/-! ### The flags and the host's reads (R31, R32, R34) -/

theorem State.ready_iff (s : State) : s.ready = true ↔ s.seqState = .idle := by
  simp [State.ready]

theorem State.doneFlag_iff (s : State) :
    s.doneFlag = true ↔ (s.seqState = .rejected ∨ s.seqState = .done) ∧ s.outq = [] := by
  simp [State.doneFlag, SeqState.terminal_iff]

theorem State.busy_iff (s : State) : s.busy = true ↔ s.ready = false ∧ s.doneFlag = false := by
  simp [State.busy]

/-- With `DONE = 1` the host gets the code of `ERR`. -/
theorem State.hostRead_code {s : State} (h : s.doneFlag = true) :
    s.hostRead .code = .ok s.err.code.toNat :=
  if_pos h

/-- Settles O33: each flag by its `iff`; the flags exclude one another because `IDLE` is not
terminal. -/
theorem derivedFlags : Obligations.DerivedFlags := by
  unfold Obligations.DerivedFlags
  intro s
  refine ⟨s.ready_iff, s.doneFlag_iff, s.busy_iff, ?_, State.hostRead_code, ?_⟩
  · rintro ⟨hr, hd⟩
    rw [State.ready_iff] at hr
    simp [State.doneFlag_iff, hr] at hd
  · intro hd he
    rw [State.hostRead_code hd, he]
    rfl

/-- A detail register is valid with `DONE = 1` and under its own `ERR` value (R31, R34). -/
theorem State.statusValid_detail (s : State) {r : HostReg} {need : ErrCode}
    (h : ((r = .errField ∨ r = .errLen) ∧ need = .rejected) ∨
      ((r = .errPos ∨ r = .errSym) ∧ need = .defect) ∨ (r = .errOp ∧ need = .sinkFail)) :
    s.statusValid r = true ↔ s.doneFlag = true ∧ s.err = need := by
  rcases h with ⟨rfl | rfl, rfl⟩ | ⟨rfl | rfl, rfl⟩ | ⟨rfl, rfl⟩ <;> simp [State.statusValid]

/-- A read is answered or faults, as `statusValid` says. -/
theorem step_of_read {s : State} {r : HostReg} {rest : List EnvMove} {valid : Prop} {v : Nat}
    (h : s.inputs = .read r :: rest) (hv : s.statusValid r = true ↔ valid)
    (hval : s.statusValue r = v) :
    (valid → step s = .next { s with inputs := rest } ∧ s.hostRead r = .ok v) ∧
      (¬ valid → step s = .fault (.statusNotValid r)) := by
  subst hval
  exact ⟨fun k => step_of_valid_read h (hv.mpr k),
    fun k => step_of_invalid_read h (Bool.eq_false_iff.mpr (mt hv.mp k))⟩

/-- Settles O34: every read is answered or faults as `statusValid` says, so only its condition
differs by register. -/
theorem detailReads : Obligations.DetailReads := by
  unfold Obligations.DetailReads
  intro s rest
  refine ⟨?_, ?_, ?_⟩
  · rintro r need v (⟨rfl, rfl, rfl⟩ | ⟨rfl, rfl, rfl⟩ | ⟨rfl, rfl, rfl⟩ | ⟨rfl, rfl, rfl⟩ |
      ⟨rfl, rfl, rfl⟩) hi <;>
      exact step_of_read hi (s.statusValid_detail (by simp)) rfl
  · intro hi
    obtain ⟨hvalid, hfault⟩ := step_of_read hi (valid := s.doneFlag = true) Iff.rfl rfl
    exact ⟨hvalid, fun hd => hfault (Bool.eq_false_iff.mp hd)⟩
  · rintro r v (⟨rfl, rfl⟩ | ⟨rfl, rfl⟩ | ⟨rfl, rfl⟩) hi <;> exact step_of_valid_read hi rfl

/-! ### The decoded instruction and the terminal states -/

theorem exec_decodeSymbol8 (c : Symbol) (s : State) :
    exec (decodeSymbol8 c) s = .next (symbolStep c s) := by
  unfold decodeSymbol8
  split
  · subst_vars; rfl
  split
  · subst_vars; rfl
  · rfl

/-- In the bit loop the symbol at `BIT`, run as an instruction, is the step of the state (R143,
R144). -/
theorem exec_symbol_eq_step {s : State} {c : Symbol}
    (hq : s.seqState = .bitHigh ∨ s.seqState = .bitLow) (hc : s.currentSymbol = some c) :
    exec s.seqState.instr s = exec (decodeSymbol8 c) s := by
  rw [exec_decodeSymbol8]
  rcases hq with hq | hq
  · rw [hq]
    exact (execBitHigh_of_symbol hc).trans (by rw [symbolStep, if_pos hq])
  · rw [hq]
    exact (execBitLow_of_symbol hc).trans (by rw [symbolStep, if_neg (by simp [hq]), if_pos hq])

/-- Settles O10: in each of the three cases the block's move is `exec i`, and a wait changes the
inputs alone. -/
theorem stepRunsTheDecodedInstruction : Obligations.StepRunsTheDecodedInstruction := by
  unfold Obligations.StepRunsTheDecodedInstruction
  intro s i h
  have hb : blockMove s = exec i s := by
    rcases h with ⟨w, q, ho, hd⟩ | ⟨ho, hd⟩ | ⟨ho, hq, c, hc, hd⟩
    · exact blockMove_of_legal ho hd
    · rw [decode, decodeSeqState4_code] at hd
      cases hd
      exact blockMove_of_empty ho
    · cases hd
      rw [blockMove_of_empty ho, exec_symbol_eq_step hq hc]
  refine ⟨fun hi => by rw [step_of_no_input hi, hb], fun rest hi => ?_⟩
  rw [step_of_wait hi, hb]
  cases exec i s <;> rfl

/-- Settles O26: a terminal state's step is the identity. -/
theorem terminalSteps : Obligations.TerminalSteps := by
  unfold Obligations.TerminalSteps
  refine fun s => ⟨rfl, rfl, fun hq ho hi => ⟨?_, s.doneFlag_iff.mpr ⟨hq.symm, ho⟩⟩⟩
  rw [step_of_no_input hi, blockMove_of_empty ho]
  rcases hq with hq | hq <;> rw [hq] <;> rfl

/-- Settles O37: the values stand in `State.reset`, and `N_REPEAT` is a successor. -/
theorem resetValues : Obligations.ResetValues := by
  unfold Obligations.ResetValues
  exact ⟨rfl, rfl, rfl, rfl, rfl, rfl, rfl, rfl, Nat.le_add_left 1 Config.nRepeatPred⟩

/-! ### What no step, or one step alone, writes (R21, R40) -/

/-- A completed operation writes the trace, the queue, the pin, the environment and, after `fail`,
the first error and the position. -/
theorem State.answered_frame (s : State) (w : SinkWord) (q : List SinkWord) (a : Answer)
    (rest : List Answer) (d : Dir) (l : Line) (n : Nat) :
    ∃ c e o p, s.answered w q a rest d l n =
        { s with
          answers := rest, dir := d, line := l, draws := n, trace := s.trace ++ [(w, a)], err := c,
          errOp := e, outq := o, seqState := p } ∧
      (a = .ok → o = q ∧ p = s.seqState) ∧ (a = .fail → o = []) := by
  cases a with
  | ok => exact ⟨s.err, s.errOp, q, s.seqState, rfl, fun _ => ⟨rfl, rfl⟩, nofun⟩
  | fail =>
    simp only [State.answered, State.raise_sinkFailure]
    exact ⟨_, _, _, _, rfl, nofun, fun _ => rfl⟩

/-- The frame of the sequencer's step while no request stands at the port. -/
theorem internalFrame_of_exec {s t : State} (hr : ∀ r rest, s.inputs ≠ .request r :: rest)
    (h : exec s.seqState.instr s = .next t) : InternalFrame s t := by
  by_cases hq : s.seqState = .idle
  · rw [hq, SeqState.instr, exec_idle_waits hr] at h
    cases h
    constructor <;> rfl
  · exact internal_frame h hq

theorem bitHighOn_cmd (c : Symbol) (s : State) : (bitHighOn c s).cmd = s.cmd := by
  unfold bitHighOn
  split
  · obtain ⟨_, _, _, _, _, _, _, _, h⟩ := s.raise_frame (.protocolDefect s.bit c)
    rw [h]
  · rfl

theorem bitLowOn_cmd (c : Symbol) (s : State) : (bitLowOn c s).cmd = s.cmd := by
  unfold bitLowOn advanceBit lowHoldOf
  split <;> split <;> rfl

theorem execValidating_cmd {s t : State} (h : execValidating s = .next t) : t.cmd = s.cmd := by
  unfold execValidating at h
  split at h
  · rename_i f n _
    obtain ⟨_, _, _, _, _, _, _, _, hr⟩ := s.raise_frame (.validationError f n)
    rw [hr] at h
    unfold State.releaseIfConfigured at h
    split at h <;> cases h <;> rfl
  · cases h; rfl

/-- Of the sequencer's steps only `ENCODING` writes `CMD` (R30). -/
theorem exec_cmd {s t : State} (hr : ∀ r rest, s.inputs ≠ .request r :: rest)
    (hq : s.seqState ≠ .encoding) (h : exec s.seqState.instr s = .next t) : t.cmd = s.cmd := by
  cases hs : s.seqState <;> simp only [hs, SeqState.instr] at h
  case idle => rw [exec_idle_waits hr] at h; cases h; rfl
  case validating => exact execValidating_cmd h
  case encoding => exact absurd hs hq
  case bitHigh =>
    simp only [exec, execBitHigh] at h
    split at h <;> cases h
    exact bitHighOn_cmd _ s
  case bitLow =>
    simp only [exec, execBitLow] at h
    split at h <;> cases h
    exact bitLowOn_cmd _ s
  all_goals cases h; rfl

/-- What the block's move leaves alone while no request stands at the port. -/
theorem blockMove_frame {s t : State} (hr : ∀ r rest, s.inputs ≠ .request r :: rest)
    (h : blockMove s = .next t) :
    (t.sender = s.sender ∧ t.group = s.group ∧ t.onOff = s.onOff ∧ t.recip = s.recip ∧
        t.profile = s.profile) ∧
      t.cfg = s.cfg ∧ (s.seqState ≠ .encoding ∨ s.outq ≠ [] → t.cmd = s.cmd) := by
  rcases blockMove_cases h with ⟨w, q, -, -, rfl⟩ | ⟨w, q, a, rest, d, l, n, -, -, -, rfl⟩ |
      ⟨ho, he⟩
  · exact ⟨⟨rfl, rfl, rfl, rfl, rfl⟩, rfl, fun _ => rfl⟩
  · obtain ⟨_, _, _, _, ha, -, -⟩ := s.answered_frame w q a rest d l n
    rw [ha]
    exact ⟨⟨rfl, rfl, rfl, rfl, rfl⟩, rfl, fun _ => rfl⟩
  · have hf := internalFrame_of_exec hr he
    refine ⟨⟨hf.sender, hf.group, hf.onOff, hf.recip, hf.profile⟩, hf.cfg, fun hq => ?_⟩
    exact exec_cmd hr (hq.resolve_right (not_not_intro ho)) he

/-- Settles O40, by who moves: reset keeps the configuration, and no move of the block writes it. -/
theorem configurationNeverChanges : Obligations.ConfigurationNeverChanges := by
  unfold Obligations.ConfigurationNeverChanges
  intro s t h
  rcases step_cases h with ⟨f, rest, -, rfl⟩ | ⟨r, rest, -, -, rfl⟩ | ⟨m, rest, -, rfl, -⟩ |
      ⟨d, l, rest, -, rfl⟩ | ⟨u, rest, hw, hb, rfl⟩
  · obtain ⟨d, l, n, hr⟩ := State.applyReset_eq { s with inputs := rest } f
    rw [hr]
  · rfl
  · rfl
  · rfl
  · obtain ⟨-, hc, -⟩ := blockMove_frame (no_request_of_waits hw) hb
    exact hc

/-- Settles O42, by who moves: a reset is excluded, and a request in `IDLE` is the transaction
itself. -/
theorem commandAndProfileAreImmutable : Obligations.CommandAndProfileAreImmutable := by
  unfold Obligations.CommandAndProfileAreImmutable
  intro s t h hreset
  rcases step_cases h with ⟨f, rest, hi, rfl⟩ | ⟨r, rest, hi, hq, rfl⟩ | ⟨m, rest, -, rfl, -⟩ |
      ⟨d, l, rest, -, rfl⟩ | ⟨u, rest, hw, hb, rfl⟩
  · simp [resetNext, hi] at hreset
  · exact ⟨fun hn => by simp [requestNext, hi, State.ready, hq] at hn, fun _ => rfl⟩
  · exact ⟨fun _ => ⟨rfl, rfl, rfl, rfl, rfl⟩, fun _ => rfl⟩
  · exact ⟨fun _ => ⟨rfl, rfl, rfl, rfl, rfl⟩, fun _ => rfl⟩
  · obtain ⟨hf, -, hc⟩ := blockMove_frame (no_request_of_waits hw) hb
    exact ⟨fun _ => hf, hc⟩

/-- Settles O45: the PulseSink owes an answer, or completes the head, or the sequencer moves and
leaves the trace. -/
theorem oneOperationAtATime : Obligations.OneOperationAtATime := by
  unfold Obligations.OneOperationAtATime
  intro s t hi h
  rw [step_of_no_input hi] at h
  rcases blockMove_cases h with ⟨w, q, ho, -, rfl⟩ | ⟨w, q, a, rest, d, l, n, ho, -, -, rfl⟩ |
      ⟨ho, he⟩
  · exact ⟨fun _ => rfl, fun _ _ _ => .inl rfl⟩
  · refine ⟨fun hn => by simp [ho] at hn, fun w' q' ho' => .inr ⟨a, ?_⟩⟩
    obtain ⟨rfl, rfl⟩ := List.cons.inj (ho.symm.trans ho')
    obtain ⟨_, _, _, _, ha, hok, hfail⟩ := s.answered_frame w q a rest d l n
    rw [ha]
    exact ⟨rfl, rfl, rfl, rfl, rfl, hok, hfail⟩
  · refine ⟨fun _ => (internalFrame_of_exec (by simp [hi]) he).trace, fun w q ho' => ?_⟩
    simp [ho] at ho'

end Sys2Proof.Machine

namespace Sys2Proof.Machine

/-! ### The internal-step budget (R263) -/

/-- One frame more is 132 steps more. -/
theorem framesBudget_succ (n : Nat) : framesBudget (n + 1) = framesBudget n + 132 := by
  simp only [framesBudget]
  omega

/-- A frame still to be sent. -/
theorem framesBudget_pred {n r : Nat} (h : r < n) :
    framesBudget (n - r) = framesBudget (n - r - 1) + 132 := by
  rw [← framesBudget_succ, Nat.sub_add_cancel (Nat.sub_pos_of_lt h)]

/-- The cleanup pair is always still to come. -/
theorem two_le_framesBudget (n : Nat) : 2 ≤ framesBudget n := Nat.le_add_left 2 _

/-- A state that a sink failure sends to its cleanup has two steps to go at least. -/
theorem State.two_le_budget {s : State} (hs : s.seqState.staysOnFailure = false)
    (hp : s.seqState.beforePin = false) : 2 ≤ s.budget := by
  have hnow := two_le_framesBudget (s.cfg.nRepeat - s.rep)
  have hafter := two_le_framesBudget (s.cfg.nRepeat - s.rep - 1)
  unfold State.budget
  cases hq : s.seqState <;>
    simp only [hq, SeqState.staysOnFailure, SeqState.beforePin, reduceCtorEq] at hs hp ⊢ <;>
    omega

/-- A pulse uses up at least one step of the budget. -/
theorem PulseMove.budget_lt {s : State} {q : SeqState} {r b : Nat} {x : Bool} (hi : Inv s)
    (hm : PulseMove s q r b x) (l : Level) (d : Duration) :
    State.budget { s.pulse l d with seqState := q, rep := r, bit := b, half := x } < s.budget := by
  have hf := two_le_framesBudget (s.cfg.nRepeat - s.rep - 1)
  cases hm with
  | preSilence hq =>
    have hr := framesBudget_pred (hi.repLoop (by rw [hq]; rfl))
    simp only [State.budget, hq, State.pulse_cfg]
    omega
  | silence hq hr =>
    have hn := framesBudget_pred (n := s.cfg.nRepeat - s.rep) (r := 1) (by omega)
    simp only [State.budget, hq, State.pulse_cfg, Nat.sub_add_eq]
    omega
  | agc1 hq | agc2 hq | bitHigh hq | close hq | lastSilence hq =>
    simp only [State.budget, hq, State.pulse_cfg, Bool.false_eq_true, if_false]
    omega
  | firstLow hq hh | secondLow hq hh | lastLow hq hh =>
    simp only [State.budget, hq, hh, State.pulse_cfg, Bool.false_eq_true, if_false, if_true]
    omega

/-- A move of the sequencer rests, or it uses up at least one step of the budget. -/
theorem SeqMove.rests_or_budget_lt {s t : State} (hi : Inv s) (hm : SeqMove s t) :
    (t = s ∧ (s.seqState = .idle ∨ s.seqState.terminal = true)) ∨ t.budget < s.budget := by
  have hf := two_le_framesBudget (s.cfg.nRepeat - s.rep - 1)
  cases hm with
  | rests hq => exact .inl ⟨rfl, hq⟩
  | rejects hq =>
    right
    simp only [State.budget, specRejected, hq]
    omega
  | accepts hq =>
    right
    simp only [State.budget, State.goTo_seqState, hq]
    exact Nat.lt_succ_self _
  | encodes hq =>
    right
    simp only [State.budget, hq]
    omega
  | acquires hq =>
    right
    have hn := framesBudget_pred (n := s.cfg.nRepeat) (r := 0) hi.configFixed
    rw [Nat.sub_zero] at hn
    cases hp : s.profile.preSil <;>
      simp only [State.budget, hq, hp, State.emit_cfg, Nat.sub_zero, Bool.false_eq_true, if_false,
        if_true] <;>
      omega
  | pulses l d hm => exact .inr (hm.budget_lt hi l d)
  | findsDefect c hq =>
    right
    simp only [State.budget, hq]
    omega
  | aborts hq | lowers hq | releases hq => simp [State.budget, hq]

/-- A completed operation does not raise the budget. -/
theorem State.budget_answered_le {s : State} {w : SinkWord} {q : List SinkWord} (hi : Inv s)
    (ho : s.outq = w :: q) (a : Answer) (rest : List Answer) (d : Dir) (l : Line) (n : Nat) :
    (s.answered w q a rest d l n).budget ≤ s.budget := by
  cases a with
  | ok => exact le_rfl
  | fail =>
    simp only [State.answered, State.raise_sinkFailure]
    cases hs : s.seqState.staysOnFailure with
    | true =>
      rw [specFailure_of_stays (by exact hs)]
      exact le_rfl
    | false =>
      rw [specFailure_of_moves (by exact hs)]
      exact State.two_le_budget hs (hi.not_beforePin_of_queue ho)

/-- With nothing at the port, the block's move does not raise the budget. -/
theorem budget_le_of_blockMove {s t : State} (hi : Inv s)
    (hr : ∀ r rest, s.inputs ≠ .request r :: rest) (h : blockMove s = .next t) :
    t.budget ≤ s.budget := by
  rcases blockMove_cases_of_inv hi hr h with ⟨w, q, -, rfl⟩ | ⟨w, q, a, rest, d, l, n, ho, rfl⟩ |
      ⟨-, hm⟩
  · exact le_rfl
  · exact State.budget_answered_le hi ho a rest d l n
  · rcases hm.rests_or_budget_lt hi with ⟨rfl, -⟩ | hlt
    · exact le_rfl
    · exact hlt.le

/-- The sequencer's step is enabled with `OUTQ` empty, outside `IDLE` and the terminal states
(R36). -/
theorem State.stepEnabled_iff (s : State) :
    s.stepEnabled = true ↔ s.outq = [] ∧ s.seqState ≠ .idle ∧ s.seqState.terminal = false := by
  simp [State.stepEnabled, and_assoc]

/-- With `Inv` and no input, an enabled step goes on, uses up some of the budget and keeps `Inv`. -/
theorem enabled_step {s : State} (hi : Inv s) (hin : s.inputs = []) (he : s.stepEnabled = true) :
    ∃ t, step s = .next t ∧ t.budget < s.budget ∧ Inv t := by
  obtain ⟨ho, hidle, hterm⟩ := s.stepEnabled_iff.mp he
  obtain ⟨t, ht, hm⟩ := seqMove_of_exec hi (by simp [hin])
  have hs : step s = .next t := by rw [step_of_no_input hin, blockMove_of_empty ho, ht]
  refine ⟨t, hs, ?_, hm.inv hi ho⟩
  rcases hm.rests_or_budget_lt hi with ⟨-, hq | hq⟩ | hlt
  · exact absurd hq hidle
  · simp [hterm] at hq
  · exact hlt

/-- Settles O51: every move that does not rest uses up budget, and an answer never gives any
back. -/
theorem internalStepsAreBounded : Obligations.InternalStepsAreBounded := by
  unfold Obligations.InternalStepsAreBounded
  refine ⟨fun s hi hin he => ?_, fun s t hi hin h => ?_, fun s hq => ?_⟩
  · obtain ⟨t, ht, hlt, hi'⟩ := enabled_step hi hin he
    exact ⟨t, ht, hlt, hi'.queueBound⟩
  · rw [step_of_no_input hin] at h
    exact budget_le_of_blockMove hi (by simp [hin]) h
  · simp only [State.budget, hq, framesBudget]
    omega

/-! ### Ownership of the pin along a run (R33, R183) -/

/-- The sequencer gives the pin up only on the way to `DONE`. -/
theorem SeqMove.owned_or_done {s t : State} (hi : Inv s) (ho : s.owned = true)
    (hm : SeqMove s t) : t.owned = true ∨ t.seqState = .done := by
  have hp : s.seqState.holdsPin = true := hi.owned ▸ ho
  cases hm with
  | rejects hq => rw [hq] at hp; cases hp
  | acquires => exact .inl rfl
  | releases => exact .inr rfl
  | _ => exact .inl ho

/-- A step that is no reset gives the pin up only on the way to `DONE`. -/
theorem owned_or_done_of_step {s t : State} (hi : Inv s) (ho : s.owned = true)
    (hreset : resetNext s = false) (h : step s = .next t) :
    t.owned = true ∨ t.seqState = .done := by
  rcases step_cases h with ⟨f, rest, hin, rfl⟩ | ⟨r, rest, -, -, rfl⟩ | ⟨m, rest, -, rfl, -⟩ |
      ⟨d, l, rest, -, rfl⟩ | ⟨u, rest, hw, hb, rfl⟩
  · simp [resetNext, hin] at hreset
  · exact .inl ho
  · exact .inl ho
  · exact .inl ho
  · rcases blockMove_cases_of_inv hi (no_request_of_waits hw) hb with ⟨w, q, -, rfl⟩ |
        ⟨w, q, a, rest', d, l, n, -, rfl⟩ | ⟨-, hm⟩
    · exact .inl ho
    · obtain ⟨_, _, _, _, ha, -, -⟩ := s.answered_frame w q a rest' d l n
      rw [ha]
      exact .inl ho
    · exact (hm.owned_or_done hi ho :)

/-- While the pin is owned, `NoResetMidSession` rules out a reset as the next move. -/
theorem NoResetMidSession.resetNext_of_owned {s : State} (hn : NoResetMidSession s) (hi : Inv s)
    (ho : s.owned = true) : resetNext s = false := by
  obtain ⟨hidle, hterm⟩ := SeqState.not_terminal_of_holdsPin (hi.owned ▸ ho)
  exact hn 0 s rfl hidle (by simp [State.doneFlag, hterm])

/-- Settles O59, by induction on the length of the run. -/
theorem pinIsOwnedUntilDone : Obligations.PinIsOwnedUntilDone := by
  unfold Obligations.PinIsOwnedUntilDone
  intro k
  induction k with
  | zero =>
    intro s t _ ho _ hr
    cases hr
    exact .inl ho
  | succ k ih =>
    intro s t hi ho hn hr
    obtain ⟨u, hu, hrun⟩ := run_succ_cases hr
    rcases owned_or_done_of_step hi ho (hn.resetNext_of_owned hi ho) hu with ho' | hd
    · rcases ih u t (inv_of_step hi hu) ho' (hn.step hu) hrun with ht | ⟨j, v, hj, hv, hd⟩
      · exact .inl ht
      · exact .inr ⟨j + 1, v, Nat.succ_le_succ hj, by rw [run_succ_of_next hu, hv], hd⟩
    · exact .inr ⟨1, u, Nat.succ_le_succ k.zero_le, by rw [run_succ_of_next hu, run_zero], hd⟩

end Sys2Proof.Machine

namespace Sys2Proof.Machine

/-! ### The end of a session is final (R72, R228, R235) -/

/-- With `DONE = 1` neither the sequencer nor the PulseSink has anything to do (R32, R177, R178). -/
theorem blockMove_of_doneFlag {s : State} (hd : s.doneFlag = true) : blockMove s = .next s := by
  obtain ⟨hq, ho⟩ := s.doneFlag_iff.mp hd
  rw [blockMove_of_empty ho]
  rcases hq with hq | hq <;> rw [hq] <;> rfl

/-- Settles O43, by who moves: a reset is excluded, `IDLE` takes no request because it is not
terminal, a refused request or a read is used up alone, and the block itself rests. -/
theorem doneIsFinal : Obligations.DoneIsFinal := by
  unfold Obligations.DoneIsFinal
  intro s t hd h hreset
  rcases step_cases h with ⟨f, rest, hi, rfl⟩ | ⟨r, rest, -, hq, rfl⟩ | ⟨m, rest, hi, rfl, -⟩ |
      ⟨d, l, rest, hi, rfl⟩ | ⟨u, rest, hw, hb, rfl⟩
  · simp [resetNext, hi] at hreset
  · simp [State.doneFlag_iff, hq] at hd
  · exact ⟨s.dir, s.line, by rw [hi, List.tail_cons], fun _ => ⟨rfl, rfl⟩⟩
  · exact ⟨d, l, by rw [hi, List.tail_cons], fun hn => by simp [touchNext, hi] at hn⟩
  · obtain rfl : s = u := Host.Outcome.next.inj ((blockMove_of_doneFlag hd).symm.trans hb)
    have htail : s.inputs.tail = rest := by
      rcases hw with ⟨hi, rfl⟩ | hi <;> rw [hi] <;> rfl
    exact ⟨s.dir, s.line, by rw [htail], fun _ => ⟨rfl, rfl⟩⟩

/-! ### The packed view (R63) -/

/-- Bits shifted in one after another: the last one is the least significant. -/
theorem getLsbD_foldl_shiftConcat {n : Nat} (bits : List Bool) {i : Nat} (hi : i < n) :
    (bits.foldl (fun w b => w.shiftConcat b) 0#n).getLsbD i = bits.reverse.getD i false := by
  induction bits using List.reverseRecOn generalizing i with
  | nil => simp
  | append_singleton bs b ih =>
    rw [List.foldl_concat, List.reverse_concat, BitVec.getLsbD_shiftConcat, decide_eq_true hi,
      Bool.true_and]
    cases i with
    | zero => rfl
    | succ i => exact ih (Nat.lt_of_succ_lt hi)

/-- The packed word of a command of 32 valid symbols. -/
theorem packedCommand_of_valid {cmd : SymString} (hlen : cmd.length = 32)
    (hv : ∀ c ∈ cmd, validSymbol c = true) :
    packedCommand cmd = some ((cmd.map isOne).foldl (fun w b => w.shiftConcat b) 0#32) := by
  rw [packedCommand, if_pos hlen, commandBits_of_valid hv, Option.map_some]

/-- Settles O56: bit `31 - p` of `W` is the bit shifted in at position `p` of the 32. -/
theorem packedView : Obligations.PackedView := by
  unfold Obligations.PackedView
  intro cmd hlen hv
  refine ⟨_, packedCommand_of_valid hlen hv, fun p hp => ?_⟩
  have hmem : cmd.getD p 0x00#8 ∈ cmd := by
    rw [List.getD_eq_getElem cmd _ (hlen ▸ hp)]
    exact List.getElem_mem _
  have hbit : (cmd.map isOne).reverse.getD (31 - p) false = isOne (cmd.getD p 0x00#8) := by
    rw [List.getD_reverse _ (by rw [List.length_map]; omega), List.length_map, hlen,
      show 32 - 1 - (31 - p) = p by omega]
    exact List.getD_map cmd 0x00#8 isOne
  rw [bitval_of_valid (hv _ hmem), getLsbD_foldl_shiftConcat _ (by omega), hbit]

end Sys2Proof.Machine

namespace Sys2Proof

/-! ### Decoder and encoder, format by format (R93, R95, R103) -/

/-- An operation with no operand is illegal with a level or a duration (R94). -/
theorem withNoOperand_error_iff (w : SinkWord) (i : Instr) :
    (∃ e, withNoOperand w i = .error e) ↔ sinkLevel w = true ∨ sinkDur w ≠ 0 := by
  unfold withNoOperand
  split
  · simp [*]
  split <;> simp_all

/-- A sink word is illegal in the reserved bit, or in a field its operation does not use (R94). -/
theorem decodeSink36_error_iff (w : SinkWord) :
    (∃ e, decodeSink36 w = .error e) ↔
      sinkReserved w = true ∨ (sinkLevel w = true ∧ sinkOp w ≠ 0b01#2) ∨
        (sinkDur w ≠ 0 ∧ sinkOp w ≠ 0b10#2) := by
  unfold decodeSink36
  split
  · simp [*] -- the reserved bit
  split
  · rw [withNoOperand_error_iff] -- `CONFIGURE`
    simp [*]
  split
  · split <;> simp_all -- `SET_LEVEL`, which has a level
  split
  · split <;> simp [*] -- `HOLD_FOR`, which has a duration
  · rw [withNoOperand_error_iff] -- `RELEASE`
    simp [*]

theorem decodeSymbol8_of_ne {c : Symbol} (h0 : c ≠ 0x30#8) (h1 : c ≠ 0x31#8) :
    decodeSymbol8 c = .symInvalid c := by
  rw [decodeSymbol8, if_neg h0, if_neg h1]

/-- Every symbol code stands for the class it decodes to (R82). -/
theorem encode_decodeSymbol8 (c : Symbol) :
    (decodeSymbol8 c).wellFormed = true ∧ encode (decodeSymbol8 c) = .symbol8 c := by
  by_cases h0 : c = 0x30#8
  · subst h0
    exact ⟨rfl, rfl⟩
  by_cases h1 : c = 0x31#8
  · subst h1
    exact ⟨rfl, rfl⟩
  rw [decodeSymbol8_of_ne h0 h1]
  exact ⟨by simp [Instr.wellFormed, h0, h1], rfl⟩

/-- No state code is reserved (R95). -/
@[simp] theorem SeqState.code_ofCode (c : SeqCode) : (SeqState.ofCode c).code = c := by
  revert c
  decide

theorem SeqState.encode_instr (q : SeqState) :
    q.instr.wellFormed = true ∧ encode q.instr = .seqState4 q.code := by
  cases q <;> exact ⟨rfl, rfl⟩

/-- A sink word that decodes is the one word of what it decodes to (R93). -/
theorem encode_of_decodeSink36 {w : SinkWord} {i : Instr} (h : decodeSink36 w = .ok i) :
    i.wellFormed = true ∧ encode i = .sink36 w := by
  obtain ⟨rfl, rfl⟩ | ⟨l, rfl, rfl⟩ | ⟨d, rfl, rfl⟩ | ⟨rfl, rfl⟩ := decodeSink36_cases h <;>
    exact ⟨rfl, rfl⟩

/-- The word of a level decodes to setting it. -/
theorem decodeSink36_setLevel (l : Level) : decodeSink36 (setLevelWord l) = .ok (.setLevel l) := by
  cases l <;> simp

/-- Settles O3, by the format of the instruction: a sink word by its fields, a symbol by the order
of its classes, while the code of a state computes. -/
theorem decodeAfterEncode : Obligations.DecodeAfterEncode := by
  unfold Obligations.DecodeAfterEncode
  intro i hwf
  cases i with
  | configure => exact decodeSink36_configure
  | setLevel l => exact decodeSink36_setLevel l
  | holdFor d => exact decodeSink36_holdFor d
  | release => exact decodeSink36_release
  | symZero | symOne => rfl
  | symInvalid c =>
    obtain ⟨h0, h1⟩ : c ≠ 0x30#8 ∧ c ≠ 0x31#8 := by simpa [Instr.wellFormed] using hwf
    exact congrArg Except.ok (decodeSymbol8_of_ne h0 h1)
  | _ => rfl

/-- Settles O4: each format has its own inverse. -/
theorem encodeAfterDecode : Obligations.EncodeAfterDecode := by
  unfold Obligations.EncodeAfterDecode
  intro e i h
  cases e with
  | sink36 w => exact encode_of_decodeSink36 h
  | symbol8 c =>
    cases h
    exact encode_decodeSymbol8 c
  | seqState4 c =>
    cases h
    obtain ⟨hwf, he⟩ := (SeqState.ofCode c).encode_instr
    exact ⟨hwf, by rw [decodeSeqState4, he, SeqState.code_ofCode]⟩

/-- Settles O1: the words by their fields. -/
theorem sinkWordsAreThoseOfTheSpec : Obligations.SinkWordsAreThoseOfTheSpec := by
  unfold Obligations.SinkWordsAreThoseOfTheSpec
  exact ⟨congrArg Encoded.sink36 configureWord_eq, congrArg Encoded.sink36 setLevelWord_low,
    congrArg Encoded.sink36 setLevelWord_high, fun d => congrArg Encoded.sink36 (holdForWord_eq d),
    congrArg Encoded.sink36 releaseWord_eq⟩

/-- Settles O2: the decoder computes on a word written out. -/
theorem specWordsDecode : Obligations.SpecWordsDecode := by
  unfold Obligations.SpecWordsDecode
  decide

/-- Settles O6: the state of a code has that code, and the decoder runs its step. -/
theorem sequencerCodes : Obligations.SequencerCodes := by
  unfold Obligations.SequencerCodes
  exact ⟨by decide, fun c => ⟨SeqState.ofCode c, SeqState.code_ofCode c, rfl⟩⟩

end Sys2Proof

namespace Sys2Proof.Machine

/-! ### What an internal step emits (R94) -/

theorem legalWord_iff (w : SinkWord) : legalWord w = true ↔ ∃ i, decodeSink36 w = .ok i := by
  unfold legalWord
  cases decodeSink36 w <;> simp

/-- The queue holds no word that R94 calls illegal. -/
def State.queueLegal (s : State) : Prop := ∀ w ∈ s.outq, legalWord w = true

theorem State.queueLegal_emit {s : State} {w : SinkWord} (h : s.queueLegal)
    (hw : legalWord w = true) : (s.emit w).queueLegal := by
  intro v hv
  rw [State.emit_outq, List.mem_append, List.mem_singleton] at hv
  rcases hv with hv | rfl
  · exact h v hv
  · exact hw

theorem State.queueLegal_pulse {s : State} (h : s.queueLegal) (l : Level) (d : Duration) :
    (s.pulse l d).queueLegal :=
  State.queueLegal_emit (State.queueLegal_emit h (legalWord_setLevel l)) (legalWord_holdFor d)

/-- Recording an error leaves the queue alone. -/
@[simp] theorem State.record_outq (s : State) (e : ErrEvent) : (s.record e).outq = s.outq := by
  obtain ⟨_, _, _, _, _, _, h⟩ := s.record_status_only e
  rw [h]

theorem State.queueLegal_record {s : State} (h : s.queueLegal) (e : ErrEvent) :
    (s.record e).queueLegal := by
  rw [State.queueLegal, State.record_outq]
  exact h

theorem queueLegal_execValidating {s t : State} (hs : s.queueLegal)
    (h : execValidating s = .next t) : t.queueLegal := by
  unfold execValidating at h
  split at h
  · rename_i f n _
    cases h
    have hr : (s.raise (.validationError f n)).queueLegal := State.queueLegal_record hs _
    unfold State.releaseIfConfigured
    split
    · exact State.queueLegal_emit hr (by decide)
    · exact hr
  · cases h
    exact hs

theorem queueLegal_bitHighOn {s : State} (hs : s.queueLegal) (c : Symbol) :
    (bitHighOn c s).queueLegal := by
  unfold bitHighOn
  split
  · exact State.queueLegal_record hs _
  · exact State.queueLegal_pulse hs .high s.profile.tHigh

theorem queueLegal_bitLowOn {s : State} (hs : s.queueLegal) (c : Symbol) :
    (bitLowOn c s).queueLegal := by
  unfold bitLowOn advanceBit lowHoldOf
  split <;> split <;> exact State.queueLegal_pulse hs .low _

/-- An internal step puts only legal words into the queue. -/
theorem queueLegal_exec {q : SeqState} {s t : State} (hs : s.queueLegal)
    (h : exec q.instr s = .next t) : t.queueLegal := by
  cases q <;> simp only [SeqState.instr, exec] at h
  case idle =>
    unfold execIdle at h
    split at h <;> cases h <;> exact hs
  case validating => exact queueLegal_execValidating hs h
  case rejected | done | encoding => cases h; exact hs
  case acquire =>
    cases h; exact State.queueLegal_emit hs (by decide : legalWord configureWord = true)
  case bitHigh =>
    unfold execBitHigh at h
    split at h <;> cases h
    exact queueLegal_bitHighOn hs _
  case bitLow =>
    unfold execBitLow at h
    split at h <;> cases h
    exact queueLegal_bitLowOn hs _
  case abort | cleanupLow => cases h; exact State.queueLegal_emit hs (legalWord_setLevel .low)
  case cleanupRelease =>
    cases h; exact State.queueLegal_emit hs (by decide : legalWord releaseWord = true)
  case preSilence | agc1 | agc2 | close | silence =>
    cases h; exact State.queueLegal_pulse hs _ _

/-- Settles O5: the error branches of the decoder, the fetch of an illegal head, and `queueLegal`
kept by every internal step. -/
theorem illegalSinkWordsAreRefusedAndNeverEmitted :
    Obligations.IllegalSinkWordsAreRefusedAndNeverEmitted := by
  unfold Obligations.IllegalSinkWordsAreRefusedAndNeverEmitted
  refine ⟨decodeSink36_error_iff, fun s w q e hi ho hd => ?_, fun s t hi ho h w hw => ?_⟩
  · rw [step_of_no_input hi, blockMove_of_illegal ho hd]
  · rw [step_of_no_input hi, blockMove_of_empty ho] at h
    have hs : s.queueLegal := by simp [State.queueLegal, ho]
    exact (legalWord_iff w).mp (queueLegal_exec hs h w hw)

end Sys2Proof.Machine

namespace Sys2Proof.Machine

/-! ### Pulses as the spec writes them (R87, R93) -/

theorem pulseOps_high (d : Duration) : pulseOps .high d = specHigh d := by
  rw [pulseOps, setLevelWord_high, holdForWord_eq, specHigh]

theorem pulseOps_low (d : Duration) : pulseOps .low d = specLow d := by
  rw [pulseOps, setLevelWord_low, holdForWord_eq, specLow]

/-- Settles O9: both bits are pulses of the two wire bits. -/
theorem manchesterMapping : Obligations.ManchesterMapping := by
  unfold Obligations.ManchesterMapping
  refine ⟨fun p => ?_, by decide⟩
  simp [lbitOps, wireOps, pulseOps_high, pulseOps_low, TimingProfile.lowdur]

/-- Settles O58: each line of assembly is its expansion, and the words are those of R93. -/
theorem pseudoOperations : Obligations.PseudoOperations := by
  unfold Obligations.PseudoOperations
  intro p
  have word {v w : SinkWord} (h : v = w) : [v] = [w] := congrArg (fun x => [x]) h
  have hold (d : AsmDuration) : assemble p (.holdFor d) = [specHold (d.value p)] :=
    word (holdForWord_eq (d.value p))
  exact ⟨word configureWord_eq, word setLevelWord_low, word setLevelWord_high,
    fun d => hold (.literal d), hold .tAgc1, hold .tAgc2, hold .tSil, hold .tHigh, hold .tLow0,
    hold .tLow1, word releaseWord_eq, fun _ => ⟨rfl, rfl⟩, rfl, rfl, fun _ => rfl, rfl, rfl,
    fun _ => rfl, rfl⟩

/-! ### The index table of a frame (R91) -/

/-- The words of the PulseEvent at an index. -/
def eventOps (p : TimingProfile) (bits : List Bool) (e : Nat) : List SinkWord :=
  pulseOps (frameEvent p bits e).1 (frameEvent p bits e).2

/-- Even events from the third on are the HIGH-space. -/
theorem frameEvent_even (p : TimingProfile) (bits : List Bool) {e : Nat} (h0 : e ≠ 0)
    (he : e % 2 = 0) : frameEvent p bits e = (.high, p.tHigh) := by
  unfold frameEvent
  rw [if_neg h0, if_neg (by omega), ite_eq_left_iff]
  intro _
  rw [if_neg (by omega), if_pos he]

/-- The odd events of bit `k` are the LOW holds of its two wire bits. -/
theorem frameEvent_low (p : TimingProfile) (bits : List Bool) {k : Nat} (hk : k < 32) :
    frameEvent p bits (4 * k + 3) = (.low, p.lowdur (bits.getD k false)) ∧
      frameEvent p bits (4 * k + 5) = (.low, p.lowdur (!bits.getD k false)) := by
  have low {e : Nat} (h1 : e ≠ 1) (h2 : e ≠ 131) (he : e % 2 = 1) :
      frameEvent p bits e =
        (.low, p.lowdur (bits.getD ((e - 2) / 4) false ^^ ((e - 2) / 2 % 2 == 1))) := by
    unfold frameEvent
    rw [if_neg (by omega), if_neg h1, if_neg (by omega), if_neg h2, if_neg (by omega)]
  constructor
  · rw [low (by omega) (by omega) (by omega), show (4 * k + 3 - 2) / 4 = k by omega,
      show (4 * k + 3 - 2) / 2 % 2 = 0 by omega]
    simp
  · rw [low (by omega) (by omega) (by omega), show (4 * k + 5 - 2) / 4 = k by omega,
      show (4 * k + 5 - 2) / 2 % 2 = 1 by omega]
    simp

/-- The four events of bit `k`. -/
theorem eventOps_bit (p : TimingProfile) (bits : List Bool) {k : Nat} (hk : k < 32) :
    eventOps p bits (4 * k + 2) ++ eventOps p bits (4 * k + 3) ++ eventOps p bits (4 * k + 4) ++
        eventOps p bits (4 * k + 5) = lbitOps p (bits.getD k false) := by
  obtain ⟨h3, h5⟩ := frameEvent_low p bits hk
  have h2 := frameEvent_even p bits (e := 4 * k + 2) (by omega) (by omega)
  have h4 := frameEvent_even p bits (e := 4 * k + 4) (by omega) (by omega)
  simp only [eventOps, h2, h3, h4, h5, lbitOps, wireOps, List.append_assoc]

/-- The events of the first `n` bits. -/
theorem eventOps_bits (p : TimingProfile) (bits : List Bool) {n : Nat} (hn : n ≤ 32)
    (hl : n ≤ bits.length) :
    (List.range (4 * n)).flatMap (fun e => eventOps p bits (2 + e)) =
      (bits.take n).flatMap (lbitOps p) := by
  induction n with
  | zero => rfl
  | succ n ih =>
    have hb := eventOps_bit p bits (k := n) (by omega)
    rw [List.getD_eq_getElem bits false (by omega)] at hb
    rw [Nat.mul_succ, List.range_add, List.flatMap_append, ih (by omega) (by omega),
      ← List.take_concat_get' bits n (by omega), List.flatMap_append, List.flatMap_singleton, ← hb]
    simp [List.range_succ, Nat.add_comm 2, Nat.add_assoc]

/-- A frame of 32 bits is its 132 events in order. -/
theorem frameOps_eq_events (p : TimingProfile) {bits : List Bool} (h : bits.length = 32) :
    frameOps p bits = (List.range 132).flatMap (eventOps p bits) := by
  have hbits := eventOps_bits p bits le_rfl h.ge
  rw [← h, List.take_length, h] at hbits
  rw [show 132 = 2 + 4 * 32 + 2 from rfl, List.range_add, List.range_add, List.flatMap_append,
    List.flatMap_append, List.flatMap_map, List.flatMap_map, hbits]
  rfl

/-- The levels alternate, from HIGH on. -/
theorem frameEvent_level (p : TimingProfile) (bits : List Bool) (e : Nat) :
    (frameEvent p bits e).1 = if e % 2 = 0 then .high else .low := by
  unfold frameEvent
  by_cases he : e % 2 = 0
  · rw [if_pos he, if_neg (c := e = 1) (by omega), if_neg (c := e = 131) (by omega)]
    split_ifs <;> rfl
  · rw [if_neg he, if_neg (c := e = 0) (by omega), if_neg (c := e = 130) (by omega), if_neg he]
    split_ifs <;> rfl

/-- Settles O53: preamble, bits and trailer are the first two, the middle and the last two
events. -/
theorem frameIsTheIndexTable : Obligations.FrameIsTheIndexTable := by
  unfold Obligations.FrameIsTheIndexTable
  intro p bits h
  refine ⟨?_, fun e _ => frameEvent_level p bits e⟩
  rw [frameOps_eq_events p h]
  congr 1
  funext e
  unfold eventOps
  cases (frameEvent p bits e).1 with
  | low => exact pulseOps_low _
  | high => exact pulseOps_high _

/-! ### Streams without the durations of their holds (R92, R151) -/

@[simp] theorem eraseDuration_setLevel (l : Level) :
    eraseDuration (setLevelWord l) = setLevelWord l := by
  cases l <;> decide

@[simp] theorem map_eraseDuration_pulse (l : Level) (d : Duration) :
    (pulseOps l d).map eraseDuration = [setLevelWord l, 0x800000000#36] := by
  simp only [pulseOps, List.map_cons, List.map_nil, eraseDuration_setLevel, eraseDuration_holdFor]

section
variable (p q : TimingProfile)

theorem map_eraseDuration_lbit (b : Bool) :
    (lbitOps p b).map eraseDuration = (lbitOps q b).map eraseDuration := by
  simp [lbitOps, wireOps]

theorem map_eraseDuration_preamble :
    (preambleOps p).map eraseDuration = (preambleOps q).map eraseDuration := by
  simp [preambleOps]

theorem map_eraseDuration_trailer :
    (trailerOps p).map eraseDuration = (trailerOps q).map eraseDuration := by
  simp [trailerOps]

/-- The symbols alone decide where the bit loop stops. -/
theorem bitLoopOps_profile (pos : Nat) (cmd : SymString) :
    (bitLoopOps p pos cmd).1.map eraseDuration = (bitLoopOps q pos cmd).1.map eraseDuration ∧
      (bitLoopOps p pos cmd).2 = (bitLoopOps q pos cmd).2 := by
  induction cmd generalizing pos with
  | nil => exact ⟨rfl, rfl⟩
  | cons c cs ih =>
    cases hc : bitval c with
    | none => simp [bitLoopOps, hc]
    | some b =>
      obtain ⟨hops, hdefect⟩ := ih (pos + 1)
      simp [bitLoopOps, hc, hops, hdefect, map_eraseDuration_lbit p q b]

theorem repetitionOps_profile (cmd : SymString) (n : Nat) :
    (repetitionOps p cmd n).1.map eraseDuration = (repetitionOps q cmd n).1.map eraseDuration ∧
      (repetitionOps p cmd n).2 = (repetitionOps q cmd n).2 := by
  induction n with
  | zero => exact ⟨rfl, rfl⟩
  | succ n ih =>
    obtain ⟨hrest, hstatus⟩ := ih
    obtain ⟨hops, hdefect⟩ := bitLoopOps_profile p q 0 cmd
    have hpre := map_eraseDuration_preamble p q
    have htr := map_eraseDuration_trailer p q
    rcases hp : bitLoopOps p 0 cmd with ⟨ops, o⟩
    rcases hq : bitLoopOps q 0 cmd with ⟨ops', o'⟩
    rw [hp, hq] at hops hdefect
    obtain rfl : o = o' := hdefect
    cases o with
    | none => simp [repetitionOps, hp, hq, hpre, htr, hrest, hstatus, hops]
    | some d => simp [repetitionOps, hp, hq, hpre, hops]

end

/-- A rejected session is the same under every profile (R120). -/
theorem session_of_wrong (cfg : Params) {r : Request} {f : Field} {n : Nat} (p : TimingProfile)
    (h : r.firstWrongField = some (f, n)) :
    session cfg { r with profile := p } =
      (if cfg.releaseOnReject then [releaseWord] else [], .rejected f n) := by
  have hp : Request.firstWrongField { r with profile := p } = some (f, n) := h
  simp only [session, hp]

/-- An accepted session under a profile (R181). -/
theorem session_of_right (cfg : Params) {r : Request} (p : TimingProfile)
    (h : r.firstWrongField = none) :
    session cfg { r with profile := p } =
      (configureWord :: ((if p.preSil then presilOps p else []) ++
        (repetitionOps p r.command cfg.nRepeat).1), (repetitionOps p r.command cfg.nRepeat).2) := by
  have hp : Request.firstWrongField { r with profile := p } = none := h
  simp only [session, hp]
  rfl

/-- Settles O55: a rejected session has no duration; an accepted one is `CONFIGURE`, the pre-silence
if any, and repetitions that differ in durations alone. -/
theorem profileIndependence : Obligations.ProfileIndependence := by
  unfold Obligations.ProfileIndependence
  intro cfg r p q
  obtain ⟨hops, hstatus⟩ := repetitionOps_profile p q r.command cfg.nRepeat
  refine ⟨fun hsil => ?_, fun hp hq hw => ?_⟩
  · cases hw : r.firstWrongField with
    | some e =>
      rw [session_of_wrong cfg p hw, session_of_wrong cfg q hw]
      exact ⟨rfl, rfl⟩
    | none =>
      rw [session_of_right cfg p hw, session_of_right cfg q hw]
      refine ⟨?_, hstatus⟩
      simp only [List.map_cons, List.map_append, hops, hsil]
      cases q.preSil <;> simp [presilOps]
  · rw [session_of_right cfg p hw, session_of_right cfg q hw]
    exact ⟨_, _, by rw [if_pos hp, presilOps, pulseOps_low, configureWord_eq],
      by rw [if_neg (by simp [hq]), List.nil_append, configureWord_eq], hops⟩

end Sys2Proof.Machine

namespace Sys2Proof.Machine

/-! ### Symbols and status codes (R82, R96, R97) -/

theorem validSymbol_of_ne {c : Symbol} (h0 : c ≠ 0x30#8) (h1 : c ≠ 0x31#8) :
    validSymbol c = false := by
  rw [Bool.eq_false_iff, ne_eq, validSymbol_iff]
  exact not_or_intro h0 h1

/-- Settles O8: the two valid codes compute; any other code falls through both tests. -/
theorem symbolClasses : Obligations.SymbolClasses := by
  unfold Obligations.SymbolClasses
  refine ⟨rfl, rfl, rfl, rfl, fun c h0 h1 => ?_⟩
  have hv := validSymbol_of_ne h0 h1
  exact ⟨hv, bitval_of_invalid hv, congrArg Except.ok (decodeSymbol8_of_ne h0 h1)⟩

/-- Settles O7: the codes are the model's own, and the read of `CODE` is `State.hostRead_code`. -/
theorem statusCodes : Obligations.StatusCodes := by
  unfold Obligations.StatusCodes
  exact ⟨by decide, by decide, fun _ => State.hostRead_code⟩

/-! ### The steps of `ENCODING` and of the bit loop (R125, R143, R144) -/

/-- Settles O14: each field is what is left after the lengths before it. -/
theorem encodingStep : Obligations.EncodingStep := by
  unfold Obligations.EncodingStep
  refine fun s => ⟨s.concatenation, rfl, rfl, fun hs hg ho hr => ?_⟩
  have hlen := State.concatenation_length (s.firstWrongField_eq_none.mpr ⟨hs, hg, ho, hr⟩)
  refine ⟨hlen, ?_, ?_, ?_, List.drop_left' (by simp [hs, hg, ho])⟩ <;>
    simp [State.concatenation, List.take_append, List.drop_append, hs, hg, ho]

theorem State.pulse_high_eq (s : State) (d : Duration) :
    s.pulse .high d = { s with outq := s.outq ++ specHigh d } := by
  rw [← pulseOps_high, pulseOps, ← State.pulse_outq]
  rfl

theorem State.pulse_low_eq (s : State) (d : Duration) :
    s.pulse .low d = { s with outq := s.outq ++ specLow d } := by
  rw [← pulseOps_low, pulseOps, ← State.pulse_outq]
  rfl

theorem symbolStep_of_bitHigh {s : State} (hq : s.seqState = .bitHigh) (c : Symbol) :
    symbolStep c s = bitHighOn c s := if_pos hq

theorem symbolStep_of_bitLow {s : State} (hq : s.seqState = .bitLow) (c : Symbol) :
    symbolStep c s = bitLowOn c s := by
  rw [symbolStep, if_neg (by simp [hq]), if_pos hq]

/-- A valid symbol in `BIT_HIGH`, run as an instruction. -/
theorem symbolStep_high {s : State} {c : Symbol} (hq : s.seqState = .bitHigh)
    (hc : validSymbol c = true) :
    symbolStep c s =
      { s with outq := s.outq ++ specHigh s.profile.tHigh, seqState := .bitLow } := by
  rw [symbolStep_of_bitHigh hq, bitHighOn_of_ok (.inr hc), State.pulse_high_eq]
  rfl

/-- A valid symbol in `BIT_LOW` of its first wire bit. -/
theorem symbolStep_low_first {s : State} {c : Symbol} (hq : s.seqState = .bitLow)
    (hh : s.half = false) (hc : validSymbol c = true) :
    symbolStep c s =
      { s with
        outq := s.outq ++ specLow (s.profile.lowdur (isOne c)), half := true,
        seqState := .bitHigh } := by
  rw [symbolStep_of_bitLow hq, bitLowOn_of_first hc hh, State.pulse_low_eq]

/-- A valid symbol in `BIT_LOW` of its second wire bit. -/
theorem symbolStep_low_second {s : State} {c : Symbol} (hq : s.seqState = .bitLow)
    (hh : s.half = true) (hc : validSymbol c = true) :
    symbolStep c s =
      { s with
        outq := s.outq ++ specLow (s.profile.lowdur (!isOne c)), half := false, bit := s.bit + 1,
        seqState := if s.bit + 1 = 32 then .close else .bitHigh } := by
  rw [symbolStep_of_bitLow hq, bitLowOn_of_second hc hh, State.pulse_low_eq]

/-- Settles O21, by the state and the wire bit, for both valid symbols at once. -/
theorem validSymbolSteps : Obligations.ValidSymbolSteps := by
  unfold Obligations.ValidSymbolSteps
  exact fun s =>
    ⟨fun hq => ⟨congrArg _ (symbolStep_high hq rfl), congrArg _ (symbolStep_high hq rfl)⟩,
      fun hq hh =>
        ⟨congrArg _ (symbolStep_low_first hq hh rfl), congrArg _ (symbolStep_low_first hq hh rfl)⟩,
      fun hq hh =>
        ⟨congrArg _ (symbolStep_low_second hq hh rfl),
          congrArg _ (symbolStep_low_second hq hh rfl)⟩⟩

/-- Settles O22: the check of `BIT_HIGH` fails and raises the first error of the session. -/
theorem invalidSymbolIsADefect : Obligations.InvalidSymbolIsADefect := by
  unfold Obligations.InvalidSymbolIsADefect
  intro s c h0 h1 hq hh he
  refine ⟨congrArg Host.Outcome.next ?_, ?_⟩
  · rw [symbolStep_of_bitHigh hq, bitHighOn_of_invalid hh (validSymbol_of_ne h0 h1),
      State.raise_defect he]
  · simp only [exec, execAbort, setLevelWord_low]
    rfl

/-- An invalid symbol's LOW hold is that of a free wire bit (log entry 6). -/
theorem lowHoldOf_of_invalid {c : Symbol} (hc : validSymbol c = false) (s : State) :
    lowHoldOf c s = (emitLowHold (Config.freeWireBit s.draws) s).drawn := by
  simp only [lowHoldOf, wire_of_invalid hc]

/-- The next wire bit, in one update for both halves (R144). -/
theorem advanceBit_eq (s : State) :
    advanceBit s =
      { s with
        half := !s.half
        bit := if s.half = true then s.bit + 1 else s.bit
        seqState := if s.half = true ∧ s.bit + 1 = 32 then .close else .bitHigh } := by
  cases hh : s.half with
  | false => simp [advanceBit_of_first hh]
  | true => simp [advanceBit_of_second hh]

/-- Settles O20: the wire bit is the one the model draws, and both steps read `CMD` at `BIT`. -/
theorem bitLoopOutsideTheRules : Obligations.BitLoopOutsideTheRules := by
  unfold Obligations.BitLoopOutsideTheRules
  refine ⟨fun s c hc h0 h1 => ⟨Config.freeWireBit s.draws, ?_⟩, fun s hc => ?_⟩
  · refine (execBitLow_of_symbol hc).trans (congrArg _ ?_)
    rw [bitLowOn, lowHoldOf_of_invalid (validSymbol_of_ne h0 h1), advanceBit_eq, emitLowHold,
      State.pulse_low_eq]
    rfl
  · have hn : s.currentSymbol = none := hc
    simp only [exec, execBitHigh, execBitLow, hn, and_self]

end Sys2Proof.Machine

namespace Sys2Proof.Machine

/-! ### The check of `VALIDATING` (R120 to R122) -/

/-- A field of wrong length is the one reported when the fields before it in check order are right. -/
theorem State.firstWrongField_of_first_wrong {s : State} {f : Field} (before : List Field)
    {after : List Field} (ho : checkOrder = before ++ f :: after)
    (hb : ∀ g ∈ before, (s.field g).length = expectedLength g)
    (hf : (s.field f).length ≠ expectedLength f) :
    s.firstWrongField = some (f, (s.field f).length) := by
  have hnone : before.findSome? s.wrongLength = none :=
    List.findSome?_eq_none_iff.mpr fun g hg => (s.wrongLength_eq_none g).mpr (hb g hg)
  have hsome : s.wrongLength f = some (f, (s.field f).length) := if_neg hf
  simp only [State.firstWrongField, ho, List.findSome?_append, List.findSome?_cons, hnone, hsome,
    Option.none_or]

/-- `VALIDATING` rejects the first field of wrong length, with its length. -/
theorem execValidating_of_first_wrong {s : State} {f : Field} (he : s.err = .none)
    (before : List Field) {after : List Field} (ho : checkOrder = before ++ f :: after)
    (hb : ∀ g ∈ before, (s.field g).length = expectedLength g)
    (hf : (s.field f).length ≠ expectedLength f) :
    execValidating s = .next (specRejected s f (s.field f).length) :=
  execValidating_of_wrong he (State.firstWrongField_of_first_wrong before ho hb hf)

/-- Settles O13: each clause cuts the check order at the field it reports. -/
theorem validatingStep : Obligations.ValidatingStep := by
  unfold Obligations.ValidatingStep
  intro s he
  refine ⟨fun hs => ?_, fun hs hg => ?_, fun hs hg ho => ?_, fun hs hg ho hr => ?_,
    fun hs hg ho hr => ?_⟩
  · exact execValidating_of_first_wrong (f := .sender) he [] rfl (by simp) hs
  · exact execValidating_of_first_wrong (f := .group) he [.sender] rfl
      (by simp [State.field, expectedLength, hs]) hg
  · exact execValidating_of_first_wrong (f := .onOff) he [.sender, .group] rfl
      (by simp [State.field, expectedLength, hs, hg]) ho
  · exact execValidating_of_first_wrong (f := .recipient) he [.sender, .group, .onOff] rfl
      (by simp [State.field, expectedLength, hs, hg, ho]) hr
  · exact execValidating_of_right (s.firstWrongField_eq_none.mpr ⟨hs, hg, ho, hr⟩)

/-! ### Symbols outside the bit loop (R124, R127, R145) -/

theorem symbolStep_of_not_bitLoop {s : State} (hh : s.seqState ≠ .bitHigh)
    (hl : s.seqState ≠ .bitLow) (c : Symbol) : symbolStep c s = s := by
  rw [symbolStep, if_neg hh, if_neg hl]

/-- Settles O23: whatever a symbol decodes to runs `symbolStep`, which only the bit loop reads. -/
theorem symbolsOutsideTheBitLoop : Obligations.SymbolsOutsideTheBitLoop := by
  unfold Obligations.SymbolsOutsideTheBitLoop
  intro s c i hh hl hd
  have hi : decodeSymbol8 c = i := Except.ok.inj hd
  rw [← hi, exec_decodeSymbol8, symbolStep_of_not_bitLoop hh hl]

end Sys2Proof.Machine

namespace Sys2Proof.Machine

/-! ### The transmitter (R141 to R148, R173, R175, R176) -/

/-- Settles O16: each step is one pulse, as the spec writes it, and a move. -/
theorem pulseSteps : Obligations.PulseSteps := by
  unfold Obligations.PulseSteps
  intro s
  refine ⟨?_, ?_, ?_⟩
  · simp only [exec, execAgc1, State.pulse_high_eq, State.goTo]
  · simp only [exec, execClose, State.pulse_high_eq, State.goTo]
  · simp only [exec, execPreSilence, State.pulse_low_eq, State.goTo]

/-- Settles O17: the pulse of `AGC2`, beside the two counters it clears. -/
theorem agc2Step : Obligations.Agc2Step := by
  unfold Obligations.Agc2Step
  intro s
  simp only [exec, execAgc2, State.pulse_low_eq, State.goTo]

/-- A defect after the first error of a session only diverts the sequencer (R224). -/
theorem State.raise_defect_of_err {s : State} (h : s.err ≠ .none) (p : Nat) (c : Symbol) :
    s.raise (.protocolDefect p c) = { s with seqState := .abort } := by
  rw [State.raise, State.record_of_err h, State.divert, State.goTo]

/-- Settles O18: the check of the symbol fails or passes; a failed one meets `ERR` clear or set. -/
theorem bitHighStep : Obligations.BitHighStep := by
  unfold Obligations.BitHighStep
  intro s c hc
  have hx : exec .bitHigh s = .next (bitHighOn c s) := execBitHigh_of_symbol hc
  refine ⟨fun hh h0 h1 he => ?_, fun hh h0 h1 he => ?_, fun hok => ?_⟩
  · rw [hx, bitHighOn_of_invalid hh (validSymbol_of_ne h0 h1), State.raise_defect he]
  · rw [hx, bitHighOn_of_invalid hh (validSymbol_of_ne h0 h1), State.raise_defect_of_err he]
  · rw [hx, bitHighOn_of_ok (hok.imp_right (validSymbol_iff c).mpr), State.pulse_high_eq,
      State.goTo]

/-- The LOW hold of a valid symbol is that of `bitval XOR HALF` (R90). -/
theorem lowHoldOf_of_valid {c : Symbol} (hc : validSymbol c = true) (s : State) :
    lowHoldOf c s = emitLowHold (isOne c ^^ s.half) s := by
  simp only [lowHoldOf, wire_of_valid hc]

/-- Settles O19: the LOW hold of the symbol's wire bit, then the next wire bit. -/
theorem bitLowStep : Obligations.BitLowStep := by
  unfold Obligations.BitLowStep
  intro s c hc hv
  refine (execBitLow_of_symbol hc).trans (congrArg _ ?_)
  rw [bitLowOn, lowHoldOf_of_valid ((validSymbol_iff c).mpr hv), advanceBit_eq, emitLowHold,
    State.pulse_low_eq]
  rfl

/-- Settles O24: the pulse leaves `REP` and `N_REPEAT`, on which the decision rests. -/
theorem silenceStep : Obligations.SilenceStep := by
  unfold Obligations.SilenceStep
  intro s
  simp only [exec, execSilence, State.pulse_low_eq, State.goTo]

/-- Settles O25: each step emits one word of the spec. -/
theorem cleanupSteps : Obligations.CleanupSteps := by
  unfold Obligations.CleanupSteps
  intro s
  refine ⟨?_, ?_, ?_⟩
  · simp only [exec, execAbort, setLevelWord_low, State.emit, State.goTo]
  · simp only [exec, execCleanupLow, setLevelWord_low, State.emit, State.goTo]
  · simp only [exec, execCleanupRelease, releaseWord_eq, State.emit, State.goTo]

end Sys2Proof.Machine

namespace Sys2Proof

/-- From every state past `ACQUIRE` that a failure does not leave alone, the table has the edge to
`CLEANUP_LOW` (R174, R227). -/
theorem SeqState.cleanupLow_edge {q : SeqState} (hs : q.staysOnFailure = false)
    (hp : q.beforePin = false) : .cleanupLow = q ∨ .cleanupLow ∈ q.successors := by
  cases q <;> simp_all [SeqState.staysOnFailure, SeqState.beforePin, SeqState.successors]

end Sys2Proof

namespace Sys2Proof.Machine

/-! ### The request port, the PulseSink's wait and `ACQUIRE` (R170 to R172, R263) -/

/-- A request at the port of `IDLE` is taken by the step of `IDLE` (R170). -/
theorem step_of_request_idle {s : State} {r : Request} {rest : List EnvMove}
    (hq : s.seqState = .idle) (h : s.inputs = .request r :: rest) : step s = exec .idle s := by
  simp only [step, nextMove, h, if_pos (s.ready_iff.mpr hq)]

/-- A request outside `IDLE` is used up with no effect (R171, log entry 22). -/
theorem step_of_request_busy {s : State} {r : Request} {rest : List EnvMove}
    (hq : s.seqState ≠ .idle) (h : s.inputs = .request r :: rest) :
    step s = .next { s with inputs := rest } := by
  simp only [step, nextMove, h, if_neg (mt s.ready_iff.mp hq)]

/-- Settles O11: the port hands the request to `IDLE`, whose step is the latch. -/
theorem requestTransaction : Obligations.RequestTransaction := by
  unfold Obligations.RequestTransaction
  refine ⟨fun s r rest hq hi => ⟨step_of_request_idle hq hi, ?_⟩, fun s => s.ready_iff.mpr,
    fun s hi => exec_idle_waits (by simp [hi])⟩
  rw [exec_idle_of_request hi]
  rfl

/-- Settles O15: the operation it emits is the word of `CONFIGURE`. -/
theorem acquireStep : Obligations.AcquireStep := by
  unfold Obligations.AcquireStep
  intro s
  simp only [exec, execAcquire, configureWord_eq, State.emit, State.goTo]

/-- A legal operation that the PulseSink has not answered makes the block wait (R263). -/
theorem blockMove_of_no_answer {s : State} {w : SinkWord} {q : List SinkWord} {i : Instr}
    (ho : s.outq = w :: q) (hd : decodeSink36 w = .ok i) (ha : s.answers = []) :
    blockMove s = .next s := by
  obtain ⟨perform, -, he⟩ := exec_sink hd
  rw [blockMove_of_legal ho hd, he]
  simp only [sinkStep, ha]

/-- Settles O32: the operation that waits is in `OUTQ`, so `DONE` is 0. -/
theorem waitsForThePulseSink : Obligations.WaitsForThePulseSink := by
  unfold Obligations.WaitsForThePulseSink
  intro s w q i hi ho hd ha
  exact ⟨by rw [step_of_no_input hi, blockMove_of_no_answer ho hd ha], by simp [State.doneFlag, ho]⟩

/-! ### The position after a move (R171, R174, R227) -/

/-- An answer moves the sequencer only when it is `fail`, and then to `CLEANUP_LOW`, unless the
state is one that a failure leaves alone (R227). -/
theorem State.answered_seqState (s : State) (w : SinkWord) (q : List SinkWord) (a : Answer)
    (rest : List Answer) (d : Dir) (l : Line) (n : Nat) :
    (s.answered w q a rest d l n).seqState = s.seqState ∨
      s.seqState.staysOnFailure = false ∧
        (s.answered w q a rest d l n).seqState = .cleanupLow := by
  cases a with
  | ok => exact .inl rfl
  | fail =>
    simp only [State.answered, State.raise_sinkFailure]
    cases hs : s.seqState.staysOnFailure with
    | true => exact .inl (by rw [specFailure_of_stays (by exact hs)])
    | false => exact .inr ⟨rfl, by rw [specFailure_of_moves (by exact hs)]⟩

/-- In a terminal state the block's move keeps the position (R177, R178). -/
theorem blockMove_of_terminal {s t : State} (hq : s.seqState.terminal = true)
    (h : blockMove s = .next t) : t.seqState = s.seqState := by
  have hcases := s.seqState.terminal_iff.mp hq
  rcases blockMove_cases h with ⟨w, q, -, -, rfl⟩ | ⟨w, q, a, rest, d, l, n, -, -, -, rfl⟩ | ⟨-, he⟩
  · rfl
  · refine (s.answered_seqState w q a rest d l n).resolve_right fun ⟨hs, _⟩ => ?_
    rcases hcases with hq | hq <;> rw [hq] at hs <;> cases hs
  · rcases hcases with hq | hq <;> rw [hq] at he <;> cases he <;> rfl

/-- Settles O12: the port of a busy block drops the request, and of the moves only a reset changes a
terminal position. -/
theorem requestOutsideIdle : Obligations.RequestOutsideIdle := by
  unfold Obligations.RequestOutsideIdle
  refine ⟨fun s hq => Bool.eq_false_iff.mpr (mt s.ready_iff.mp hq),
    fun s r rest hq hi => ⟨rest, step_of_request_busy hq hi⟩, fun s t hq h => ?_⟩
  rcases step_cases h with ⟨f, rest, hi, -⟩ | ⟨r, rest, -, hidle, -⟩ | ⟨m, rest, -, rfl, -⟩ |
      ⟨d, l, rest, -, rfl⟩ | ⟨u, rest, -, hb, rfl⟩
  · exact .inl ⟨f, rest, hi⟩
  · simp [hidle] at hq
  · exact .inr rfl
  · exact .inr rfl
  · exact .inr (blockMove_of_terminal (s.seqState.terminal_iff.mpr hq.symm) hb :)

/-- A pulse follows an edge of the table. -/
theorem PulseMove.edge {s : State} {q : SeqState} {r b : Nat} {x : Bool}
    (hm : PulseMove s q r b x) : q ∈ s.seqState.successors := by
  cases hm <;> simp [SeqState.successors, *]

/-- A move of the sequencer rests or follows an edge of the table. -/
theorem SeqMove.edge {s t : State} (hm : SeqMove s t) :
    t.seqState = s.seqState ∨ t.seqState ∈ s.seqState.successors := by
  cases hm with
  | rests => exact .inl rfl
  | pulses l d hm => exact .inr hm.edge
  | acquires hq => cases hp : s.profile.preSil <;> simp [SeqState.successors, hq]
  | rejects hq | accepts hq | encodes hq | findsDefect _ hq | aborts hq | lowers hq | releases hq =>
    simp [SeqState.successors, specRejected, hq]

/-- Settles O44, by who moves: a reset is excluded, the request takes the edge out of `IDLE`, a
failure the edge to `CLEANUP_LOW`, and the sequencer the edge of its own move. -/
theorem transitionTable : Obligations.TransitionTable := by
  unfold Obligations.TransitionTable
  intro s t hi h hreset
  rcases step_cases h with ⟨f, rest, hin, rfl⟩ | ⟨r, rest, -, hq, rfl⟩ | ⟨m, rest, -, rfl, -⟩ |
      ⟨d, l, rest, -, rfl⟩ | ⟨u, rest, hw, hb, rfl⟩
  · simp [resetNext, hin] at hreset
  · exact .inr (by rw [hq]; exact List.mem_singleton_self _)
  · exact .inl rfl
  · exact .inl rfl
  · rcases blockMove_cases_of_inv hi (no_request_of_waits hw) hb with ⟨w, q, -, rfl⟩ |
        ⟨w, q, a, rest', d, l, n, ho, rfl⟩ | ⟨-, hm⟩
    · exact .inl rfl
    · rcases s.answered_seqState w q a rest' d l n with hs | ⟨hs, hc⟩
      · exact .inl hs
      · simp only [hc]
        exact SeqState.cleanupLow_edge hs (hi.not_beforePin_of_queue ho)
    · exact hm.edge

/-! ### The end of every run (R183) -/

/-- After a reset the invariant holds. -/
theorem ResetDone.inv {s : State} (h : ResetDone s) (hc : ConfigFixed s) : Inv s := by
  obtain ⟨hq, he, ho, hoq, ht, hb, hr, hm⟩ := h
  refine inv_of_beforePin (by rw [hq]; rfl) hc ⟨hoq, ht, he⟩ ho ?_ hm ?_ hb hr <;>
    (rw [hq]; exact nofun)

theorem Inv.run {s t : State} (hi : Inv s) {k : Nat} (h : Sys2Proof.core.run k s = .next t) :
    Inv t :=
  run_induction (fun _ _ => inv_of_step) k s t hi h

/-- With `OUTQ` empty, the words issued are those of the trace. -/
theorem State.issued_of_empty {s : State} (ho : s.outq = []) : s.issued = s.trace.map Prod.fst := by
  rw [State.issued, ho, List.append_nil]

/-- After a `SET_LEVEL` answered `ok` the level driven is its level, whatever came before (R207). -/
theorem driveLevel_setLevel (before : List (SinkWord × Answer)) (l : Level) (x : Option Level) :
    (before ++ [(setLevelWord l, Answer.ok)]).foldl driveLevel x = some l := by
  simp [driveLevel, decodeSink36_setLevel]

/-- The last two entries of a trace, from its last two words. -/
theorem trace_of_last_two {tr : List (SinkWord × Answer)} {before : List SinkWord} {v w : SinkWord}
    (h : tr.map Prod.fst = before ++ [v, w]) :
    ∃ pre a b, tr = pre ++ [(v, a), (w, b)] := by
  obtain ⟨pre, tl, rfl, -, htl⟩ := List.map_eq_append_iff.mp h
  obtain ⟨⟨v', a⟩, tl', rfl, rfl, htl'⟩ := List.map_eq_cons_iff.mp htl
  obtain ⟨⟨w', b⟩, tl'', rfl, rfl, hnil⟩ := List.map_eq_cons_iff.mp htl'
  obtain rfl := List.map_eq_nil_iff.mp hnil
  exact ⟨pre, a, b, rfl⟩

/-- Settles O48: the invariant holds at the end of the run, and with `OUTQ` empty what it says of
the words issued it says of the trace. -/
theorem sessionGuarantees : Obligations.SessionGuarantees := by
  unfold Obligations.SessionGuarantees
  intro k s t hr hc hrun hd
  have hi : Inv t := (hr.inv hc).run hrun
  obtain ⟨hq, ho⟩ := t.doneFlag_iff.mp hd
  rw [← State.issued_of_empty ho]
  refine ⟨hi.notOwned ?_, fun hdone => ⟨hi.configureFirst (.inr hdone), ?_⟩, hi.rejectedIssued⟩
  · rcases hq with hq | hq <;> rw [hq] <;> rfl
  · obtain ⟨-, before, hb⟩ := hi.releaseIssued hdone
    rw [State.issued_of_empty ho] at hb
    obtain ⟨pre, a, b, htr⟩ := trace_of_last_two hb
    refine ⟨pre, a, b, htr, fun ha => ?_⟩
    rw [ha, ← setLevelWord_low]
    exact driveLevel_setLevel pre .low none

end Sys2Proof.Machine

namespace Sys2Proof

/-- The table has no edge into `IDLE` (R174). -/
theorem SeqState.idle_not_successor (q : SeqState) : .idle ∉ q.successors := by
  cases q <;> simp [SeqState.successors]

end Sys2Proof

namespace Sys2Proof.Machine

/-! ### Runs end (R180, R252, R263) -/

/-- After an answer, at most the rest of the queue is left. -/
theorem State.answered_outq_length_le (s : State) (w : SinkWord) (q : List SinkWord) (a : Answer)
    (rest : List Answer) (d : Dir) (l : Line) (n : Nat) :
    (s.answered w q a rest d l n).outq.length ≤ q.length := by
  obtain ⟨_, _, o, _, ha, hok, hfail⟩ := s.answered_frame w q a rest d l n
  rw [ha]
  cases a with
  | ok => rw [(hok rfl).1]
  | fail => rw [hfail rfl]; exact Nat.zero_le _

theorem State.answered_answers (s : State) (w : SinkWord) (q : List SinkWord) (a : Answer)
    (rest : List Answer) (d : Dir) (l : Line) (n : Nat) :
    (s.answered w q a rest d l n).answers = rest := by
  obtain ⟨_, _, _, _, ha, -, -⟩ := s.answered_frame w q a rest d l n
  rw [ha]

/-- What one step, with no input, costs a session: it waits for an answer; it rests; it completes an
operation, for one answer; or it spends some of the budget and emits at most two operations. -/
inductive Progress (s : State) : State → Prop
  | waits (ho : s.outq ≠ []) (ha : s.answers = []) : Progress s s
  | rests (ho : s.outq = []) (hq : s.seqState = .idle ∨ s.seqState.terminal = true) : Progress s s
  | completes {t : State} (a : Answer) (ha : s.answers = a :: t.answers)
      (ho : t.outq.length < s.outq.length) (hb : t.budget ≤ s.budget) : Progress s t
  | spends {t : State} (ha : t.answers = s.answers) (ho : s.outq = []) (hq : t.outq.length ≤ 2)
      (hb : t.budget < s.budget) : Progress s t

theorem progress_of_step {s t : State} (hi : Inv s) (hin : s.inputs = [])
    (h : step s = .next t) : Progress s t := by
  have hr (r : Request) (rest : List EnvMove) : s.inputs ≠ .request r :: rest := by simp [hin]
  rw [step_of_no_input hin] at h
  rcases blockMove_cases h with ⟨w, q, ho, ha, rfl⟩ | ⟨w, q, a, rest, d, l, n, ho, -, ha, rfl⟩ |
      ⟨ho, he⟩
  · exact .waits (by simp [ho]) ha
  · refine .completes a (by rw [ha, State.answered_answers]) ?_
      (State.budget_answered_le hi ho a rest d l n)
    rw [ho, List.length_cons]
    exact Nat.lt_succ_of_le (s.answered_outq_length_le w q a rest d l n)
  · obtain ⟨u, hu, hm⟩ := seqMove_of_exec hi hr
    obtain rfl : u = t := Host.Outcome.next.inj (hu.symm.trans he)
    rcases hm.rests_or_budget_lt hi with ⟨rfl, hq⟩ | hlt
    · exact .rests ho hq
    · exact .spends (internalFrame_of_exec hr he).answers ho (hm.inv hi ho).queueBound hlt

/-- With the invariant and no input there is always a next state. -/
theorem Inv.exists_step {s : State} (hi : Inv s) (hin : s.inputs = []) :
    ∃ t, step s = .next t := by
  rw [step_of_no_input hin]
  cases ho : s.outq with
  | nil =>
    obtain ⟨t, ht, -⟩ := seqMove_of_exec hi (by simp [hin])
    exact ⟨t, by rw [blockMove_of_empty ho, ht]⟩
  | cons w q =>
    obtain ⟨i, hd⟩ := (legalWord_iff w).mp (hi.queueLegal w (by simp [ho]))
    obtain ⟨perform, -, he⟩ := exec_sink hd
    obtain ⟨t, ht⟩ := sinkStep_total w perform s
    exact ⟨t, by rw [blockMove_of_legal ho hd, he, ht]⟩

/-- With no input a session does not return to `IDLE`. -/
theorem not_idle_of_step {s t : State} (hi : Inv s) (hin : s.inputs = [])
    (hq : s.seqState ≠ .idle) (h : step s = .next t) : t.seqState ≠ .idle := by
  rcases transitionTable s t hi h (by simp [resetNext, hin]) with ht | ht
  · rw [ht]; exact hq
  · exact fun hidle => SeqState.idle_not_successor _ (hidle ▸ ht)

theorem no_input_of_step {s t : State} (hin : s.inputs = []) (h : step s = .next t) :
    t.inputs = [] := by
  rw [step_inputs h, hin, List.tail_nil]

/-- A bound on the moves to the end of the run: three for each step of the budget (the step and the
at most two operations it emits), and one for each operation in `OUTQ`. -/
def State.movesLeft (s : State) : Nat := 3 * s.budget + s.outq.length

/-- A session whose operations are all answered ends within `movesLeft` moves. -/
theorem run_ends {s : State} (hi : Inv s) (hin : s.inputs = []) (hq : s.seqState ≠ .idle)
    (hans : SinkAnswers s) :
    ∃ k t, k ≤ s.movesLeft ∧ Sys2Proof.core.run k s = .next t ∧ t.doneFlag = true := by
  induction hm : s.movesLeft using Nat.strong_induction_on generalizing s with
  | h m ih =>
    obtain ⟨t, ht⟩ := hi.exists_step hin
    have later (hlt : t.movesLeft < s.movesLeft) :
        ∃ k u, k ≤ m ∧ Sys2Proof.core.run k s = .next u ∧ u.doneFlag = true := by
      obtain ⟨k, u, hk, hu, hd⟩ := ih t.movesLeft (hm ▸ hlt) (inv_of_step hi ht)
        (no_input_of_step hin ht) (not_idle_of_step hi hin hq ht) (hans.step ht) rfl
      exact ⟨k + 1, u, by omega, by rw [run_succ_of_next ht, hu], hd⟩
    cases progress_of_step hi hin ht with
    | waits ho ha => exact absurd ha (hans 0 s rfl ho)
    | rests ho hterm =>
      have hterm := s.seqState.terminal_iff.mp (hterm.resolve_left hq)
      exact ⟨0, s, Nat.zero_le m, rfl, s.doneFlag_iff.mpr ⟨hterm, ho⟩⟩
    | completes a ha ho hb => exact later (by unfold State.movesLeft; omega)
    | spends ha ho hl hb => exact later (by simp only [State.movesLeft, ho, List.length_nil]; omega)

/-- A session with an answer for every operation it may still perform: two for each step of the
budget and one for each operation in `OUTQ`. -/
structure EnoughAnswers (s : State) : Prop where
  inv : Inv s
  noInput : s.inputs = []
  enough : 2 * s.budget + s.outq.length ≤ s.answers.length

theorem EnoughAnswers.step {s t : State} (h : EnoughAnswers s) (hs : step s = .next t) :
    EnoughAnswers t := by
  refine ⟨inv_of_step h.inv hs, no_input_of_step h.noInput hs, ?_⟩
  have he := h.enough
  cases progress_of_step h.inv h.noInput hs with
  | waits => exact he
  | rests => exact he
  | completes a ha ho hb => rw [ha, List.length_cons] at he; omega
  | spends ha ho hl hb => rw [ha]; omega

theorem EnoughAnswers.sinkAnswers {s : State} (h : EnoughAnswers s) : SinkAnswers s := by
  intro k t hr ho ha
  have he := (run_induction (fun _ _ => EnoughAnswers.step) k s t h hr).enough
  rw [ha, List.length_nil] at he
  exact ho (List.eq_nil_of_length_eq_zero (by omega))

/-- Settles O50: answers enough leave no operation unanswered, and then the run ends. -/
theorem runsEnd : Obligations.RunsEnd := by
  unfold Obligations.RunsEnd
  intro s hi hin hq he
  exact run_ends hi hin hq (EnoughAnswers.sinkAnswers ⟨hi, hin, he⟩)

/-! ### Runs from an accepted request -/

/-- In `IDLE` with a request at the port, the step latches it. -/
theorem step_latches {s : State} {r : Request} (hq : s.seqState = .idle)
    (hin : s.inputs = [.request r]) : step s = .next (State.latch { s with inputs := [] } r) := by
  rw [step_of_request_idle hq hin, exec_idle_of_request hin]

/-- The whole budget of a session, less the request's own move (R263). -/
theorem State.latch_movesLeft {s : State} (ho : s.outq = []) (is : List EnvMove) (r : Request) :
    (State.latch { s with inputs := is } r).movesLeft =
      3 * (5 + (if r.profile.preSil = true then 1 else 0) + 132 * s.cfg.nRepeat) := by
  simp only [State.movesLeft, State.budget, State.latch, State.goTo, framesBudget, ho,
    List.length_nil]
  omega

/-- Settles O60: after the request's own move the session has its whole budget to spend. -/
theorem acceptedRequestsEnd : Obligations.AcceptedRequestsEnd := by
  unfold Obligations.AcceptedRequestsEnd
  intro s r hc hr _ hans hin
  have hs := step_latches hr.1 hin
  obtain ⟨k, t, hk, ht, hd⟩ := run_ends (inv_of_step (hr.inv hc) hs) rfl nofun (hans.step hs)
  obtain ⟨-, -, -, ho, -⟩ := hr
  rw [State.latch_movesLeft ho] at hk
  exact ⟨k + 1, t, by omega, by rw [run_succ_of_next hs, ht], hd⟩

end Sys2Proof.Machine

namespace Sys2Proof.Machine

/-! ### Operation and PulseEvent counts (R182) -/

theorem pulseEventCount_cons (w : SinkWord) (ops : List SinkWord) :
    pulseEventCount (w :: ops) =
      pulseEventCount ops + if w.extractLsb' 34 2 = 0b10#2 then 1 else 0 := by
  simp [pulseEventCount, List.countP_cons]

@[simp] theorem pulseEventCount_nil : pulseEventCount [] = 0 := rfl

@[simp] theorem pulseEventCount_preamble (p : TimingProfile) :
    pulseEventCount (preambleOps p) = 2 := by
  simp [preambleOps]

@[simp] theorem pulseEventCount_trailer (p : TimingProfile) :
    pulseEventCount (trailerOps p) = 2 := by
  simp [trailerOps]

@[simp] theorem pulseEventCount_presil (p : TimingProfile) : pulseEventCount (presilOps p) = 1 :=
  pulseEventCount_pulse .low p.tSil

/-- A frame of 32 bits is 132 PulseEvents of two operations each (R91). -/
theorem frameOps_counts (p : TimingProfile) {bits : List Bool} (h : bits.length = 32) :
    (frameOps p bits).length = 264 ∧ pulseEventCount (frameOps p bits) = 132 := by
  simp [frameOps, pulseEventCount_bits, h]

theorem replicate_counts (n : Nat) (ops : List SinkWord) :
    (List.replicate n ops).flatten.length = ops.length * n ∧
      pulseEventCount (List.replicate n ops).flatten = pulseEventCount ops * n := by
  simp [pulseEventCount, List.countP_flatten, Nat.mul_comm]

/-- The frames of valid symbols, and the cleanup. -/
theorem repetitionOps_counts_of_valid (p : TimingProfile) {cmd : SymString} (hl : cmd.length = 32)
    (h : ∀ c ∈ cmd, validSymbol c = true) (n : Nat) :
    (repetitionOps p cmd n).1.length = 264 * n + 2 ∧
      pulseEventCount (repetitionOps p cmd n).1 = 132 * n ∧ (repetitionOps p cmd n).2 = .ok := by
  obtain ⟨hlen, hcount⟩ := frameOps_counts p (bits := cmd.map isOne) (by rw [List.length_map, hl])
  obtain ⟨hrl, hrc⟩ := replicate_counts n (frameOps p (cmd.map isOne))
  rw [repetitionOps_of_valid p h]
  exact ⟨by rw [List.length_append, hrl, hlen]; rfl, by simp [pulseEventCount_cons, hrc, hcount],
    rfl⟩

/-- The one frame of a command with its first invalid symbol at `k`, and the cleanup. -/
theorem repetitionOps_counts_of_defect (p : TimingProfile) {cmd : SymString} {k : Nat} {c : Symbol}
    (hk : cmd[k]? = some c) (hc : validSymbol c = false)
    (h : ∀ j b, j < k → cmd[j]? = some b → validSymbol b = true) {n : Nat} (hn : 1 ≤ n) :
    (repetitionOps p cmd n).1.length = 8 * k + 7 ∧
      pulseEventCount (repetitionOps p cmd n).1 = 2 + 4 * k ∧
      (repetitionOps p cmd n).2 = .defect k c := by
  obtain ⟨m, rfl⟩ := Nat.exists_eq_succ_of_ne_zero (Nat.one_le_iff_ne_zero.mp hn)
  obtain ⟨hlt, -⟩ := List.getElem?_eq_some_iff.mp hk
  have hbits : ((cmd.take k).map isOne).length = k := by simp [hlt.le]
  rw [repetitionOps_of_defect p hk hc h]
  refine ⟨?_, ?_, rfl⟩
  · simp only [List.length_append, bitsOps_length, hbits, preambleOps_length, List.length_cons,
      List.length_nil]
    omega
  · simp [pulseEventCount_bits, pulseEventCount_cons, hlt.le]

/-- The session of a request as it stands, when its first wrong field is `f` (R120, R181). -/
theorem session_eq_of_wrong (cfg : Params) {r : Request} {f : Field} {n : Nat}
    (h : r.firstWrongField = some (f, n)) :
    session cfg r = (if cfg.releaseOnReject then [releaseWord] else [], .rejected f n) :=
  session_of_wrong cfg r.profile h

/-- The session of a request as it stands, when no field is wrong (R181). -/
theorem session_eq_of_right (cfg : Params) {r : Request} (h : r.firstWrongField = none) :
    session cfg r =
      (configureWord :: ((if r.profile.preSil then presilOps r.profile else []) ++
        (repetitionOps r.profile r.command cfg.nRepeat).1),
        (repetitionOps r.profile r.command cfg.nRepeat).2) :=
  session_of_right cfg r.profile h

/-- `CONFIGURE` and the pre-silence of an accepted session, before its repetitions. -/
theorem session_counts {cfg : Params} {r : Request} (hw : r.firstWrongField = none) :
    (session cfg r).1.length =
        (repetitionOps r.profile r.command cfg.nRepeat).1.length +
          2 * (if r.profile.preSil = true then 1 else 0) + 1 ∧
      pulseEventCount (session cfg r).1 =
        pulseEventCount (repetitionOps r.profile r.command cfg.nRepeat).1 +
          (if r.profile.preSil = true then 1 else 0) ∧
      (session cfg r).2 = (repetitionOps r.profile r.command cfg.nRepeat).2 := by
  rw [session_eq_of_right cfg hw]
  cases r.profile.preSil <;> simp [pulseEventCount_cons, Nat.add_comm]

/-- Settles O52: the counts of the repetitions, under those of the session. -/
theorem operationCounts : Obligations.OperationCounts := by
  unfold Obligations.OperationCounts
  intro cfg r hn
  refine ⟨fun f n hw => ?_, fun hw hv => ?_, fun k c hw hk hc hv => ?_⟩
  · rw [session_eq_of_wrong cfg hw]
    cases cfg.releaseOnReject <;> simp [pulseEventCount_cons]
  · obtain ⟨hl, hp, hs⟩ := session_counts (cfg := cfg) hw
    obtain ⟨hrl, hrp, hrs⟩ :=
      repetitionOps_counts_of_valid r.profile (Request.command_length hw) hv cfg.nRepeat
    exact ⟨by omega, by omega, hs.trans hrs⟩
  · obtain ⟨hl, hp, hs⟩ := session_counts (cfg := cfg) hw
    obtain ⟨hrl, hrp, hrs⟩ := repetitionOps_counts_of_defect r.profile hk hc hv hn
    exact ⟨by omega, by omega, hs.trans hrs⟩

end Sys2Proof.Machine

namespace Sys2Proof.Machine

/-! ### What a session still has to do (R181) -/

/-- Operations, and then a rest of the session. -/
def andThen (ops : List SinkWord) (rest : List SinkWord × Status) : List SinkWord × Status :=
  (ops ++ rest.1, rest.2)

@[simp] theorem andThen_fst (ops : List SinkWord) (rest : List SinkWord × Status) :
    (andThen ops rest).1 = ops ++ rest.1 := rfl

@[simp] theorem andThen_snd (ops : List SinkWord) (rest : List SinkWord × Status) :
    (andThen ops rest).2 = rest.2 := rfl

@[simp] theorem andThen_nil (rest : List SinkWord × Status) : andThen [] rest = rest := rfl

@[simp] theorem andThen_andThen (a b : List SinkWord) (rest : List SinkWord × Status) :
    andThen a (andThen b rest) = andThen (a ++ b) rest := by
  simp [andThen]

/-- A frame from its bit loop on: its trailer and the later repetitions, or the end in a defect. -/
def afterBits (p : TimingProfile) (later : List SinkWord × Status) :
    List SinkWord × Option (Nat × Symbol) → List SinkWord × Status
  | (ops, some (k, c)) => (ops ++ [setLevelWord .low, setLevelWord .low, releaseWord], .defect k c)
  | (ops, none) => andThen ops (andThen (trailerOps p) later)

theorem afterBits_append (p : TimingProfile) (later : List SinkWord × Status)
    (a ops : List SinkWord) (o : Option (Nat × Symbol)) :
    afterBits p later (a ++ ops, o) = andThen a (afterBits p later (ops, o)) := by
  cases o <;> simp [afterBits, andThen]

/-- One repetition and the later ones. -/
theorem repetitionOps_succ (p : TimingProfile) (cmd : SymString) (n : Nat) :
    repetitionOps p cmd (n + 1) =
      andThen (preambleOps p) (afterBits p (repetitionOps p cmd n) (bitLoopOps p 0 cmd)) := by
  rcases hb : bitLoopOps p 0 cmd with ⟨ops, _ | ⟨k, c⟩⟩ <;>
    simp [repetitionOps, hb, afterBits, andThen]

section
variable (s : State)

/-- The request as it stands latched. -/
def State.latchedRequest : Request where
  sender := s.sender
  group := s.group
  onOff := s.onOff
  recipient := s.recip
  profile := s.profile

/-- The repetitions from the present one on. -/
def State.frames : List SinkWord × Status :=
  repetitionOps s.profile s.cmd (s.cfg.nRepeat - s.rep)

/-- The repetitions after the present one. -/
def State.laterFrames : List SinkWord × Status :=
  repetitionOps s.profile s.cmd (s.cfg.nRepeat - s.rep - 1)

/-- The session from the symbol at position `pos` of the present frame on. -/
def State.fromSymbol (pos : Nat) : List SinkWord × Status :=
  afterBits s.profile s.laterFrames (bitLoopOps s.profile pos (s.cmd.drop pos))

/-- The value of the symbol at `BIT`. -/
def State.bitNow : Bool := s.currentSymbol.elim false isOne

/-- The session from the second wire bit of the present symbol on. -/
def State.fromSecondWireBit : List SinkWord × Status :=
  andThen (wireOps s.profile (!s.bitNow)) (s.fromSymbol (s.bit + 1))

/-- What the session still emits from its present state, and the status it ends with, if every
answer is `ok`. -/
def State.toCome : List SinkWord × Status :=
  match s.seqState with
  | .validating | .encoding | .acquire => session s.cfg s.latchedRequest
  | .preSilence => andThen (presilOps s.profile) s.frames
  | .agc1 => s.frames
  | .agc2 => andThen (pulseOps .low s.profile.tAgc2) (s.fromSymbol 0)
  | .bitHigh => if s.half then s.fromSecondWireBit else s.fromSymbol s.bit
  | .bitLow =>
    if s.half then
      andThen (pulseOps .low (s.profile.lowdur (!s.bitNow))) (s.fromSymbol (s.bit + 1))
    else andThen (pulseOps .low (s.profile.lowdur s.bitNow)) s.fromSecondWireBit
  | .close => andThen (trailerOps s.profile) s.laterFrames
  | .silence => andThen (pulseOps .low s.profile.tSil) s.laterFrames
  | .abort => ([setLevelWord .low, setLevelWord .low, releaseWord], s.status)
  | .cleanupLow => ([setLevelWord .low, releaseWord], s.status)
  | .cleanupRelease => ([releaseWord], s.status)
  | .idle | .done | .rejected => ([], s.status)

/-- The whole session, as what is issued and what is to come have it. -/
def State.plan : List SinkWord × Status := andThen s.issued s.toCome

end

/-! ### The plan at each state -/

theorem State.frames_eq {s : State} (h : s.rep < s.cfg.nRepeat) :
    s.frames = andThen (preambleOps s.profile) (s.fromSymbol 0) := by
  obtain ⟨n, hn⟩ : ∃ n, s.cfg.nRepeat - s.rep = n + 1 := ⟨s.cfg.nRepeat - s.rep - 1, by omega⟩
  simp [State.frames, State.fromSymbol, State.laterFrames, hn, repetitionOps_succ]

theorem State.bitNow_eq {s : State} {c : Symbol} (hc : s.currentSymbol = some c) :
    s.bitNow = isOne c := by
  simp [State.bitNow, hc]

theorem State.drop_bit {s : State} {c : Symbol} (hc : s.currentSymbol = some c) :
    s.cmd.drop s.bit = c :: s.cmd.drop (s.bit + 1) := by
  obtain ⟨hlt, rfl⟩ := List.getElem?_eq_some_iff.mp hc
  exact List.drop_eq_getElem_cons hlt

/-- A valid symbol is its two wire bits (R89). -/
theorem State.fromSymbol_of_valid {s : State} {c : Symbol} (hc : s.currentSymbol = some c)
    (hv : validSymbol c = true) :
    s.fromSymbol s.bit = andThen (wireOps s.profile s.bitNow) s.fromSecondWireBit := by
  rw [State.fromSecondWireBit, State.bitNow_eq hc, andThen_andThen, State.fromSymbol,
    State.drop_bit hc]
  simp only [bitLoopOps, bitval_of_valid hv]
  rw [afterBits_append]
  rfl

/-- An invalid symbol ends the session (R143, R145). -/
theorem State.fromSymbol_of_invalid {s : State} {c : Symbol} (hc : s.currentSymbol = some c)
    (hv : validSymbol c = false) :
    s.fromSymbol s.bit =
      ([setLevelWord .low, setLevelWord .low, releaseWord], .defect s.bit c) := by
  simp only [State.fromSymbol, State.drop_bit hc, bitLoopOps, bitval_of_invalid hv, afterBits,
    List.nil_append]

/-- After the last symbol comes the trailer. -/
theorem State.fromSymbol_of_length {s : State} {pos : Nat} (h : s.cmd.length = pos) :
    s.fromSymbol pos = andThen (trailerOps s.profile) s.laterFrames := by
  simp [State.fromSymbol, ← h, bitLoopOps, afterBits]

/-! ### The sequencer keeps the plan -/

/-- The plan after a move that leaves the trace and emits the first operations to come. -/
theorem State.plan_of_emits {s t : State} (ops : List SinkWord) (ht : t.trace = s.trace)
    (ho : t.outq = s.outq ++ ops) (hc : s.toCome = andThen ops t.toCome) : t.plan = s.plan := by
  rw [State.plan, State.plan, hc, andThen_andThen, State.issued, State.issued, ht, ho,
    List.append_assoc]

theorem State.plan_of_pulse {s t : State} (l : Level) (d : Duration) (ht : t.trace = s.trace)
    (ho : t.outq = (s.pulse l d).outq) (hc : s.toCome = andThen (pulseOps l d) t.toCome) :
    t.plan = s.plan :=
  State.plan_of_emits (pulseOps l d) ht (ho.trans (s.pulse_outq l d)) hc

/-- The plan after a move that emits nothing. -/
theorem State.plan_of_silent {s t : State} (ht : t.trace = s.trace) (ho : t.outq = s.outq)
    (hc : s.toCome = t.toCome) : t.plan = s.plan :=
  State.plan_of_emits [] ht (by rw [ho, List.append_nil]) hc

theorem State.latchedRequest_firstWrongField (s : State) :
    s.latchedRequest.firstWrongField = s.firstWrongField := by
  simp only [Request.firstWrongField, State.firstWrongField, checkOrder, List.findSome?_cons,
    State.wrongLength]
  rfl

/-- A rejection is the session of a wrong field (R120). -/
theorem plan_specRejected {s : State} (hq : s.seqState = .validating) {f : Field} {n : Nat}
    (hw : s.firstWrongField = some (f, n)) : (specRejected s f n).plan = s.plan := by
  refine State.plan_of_emits (if s.cfg.releaseOnReject then [releaseWord] else []) rfl
    (by rw [releaseWord_eq]; rfl) ?_
  rw [← s.latchedRequest_firstWrongField] at hw
  simp only [State.toCome, hq, session_eq_of_wrong s.cfg hw]
  simp [andThen, specRejected, State.status]

theorem plan_execValidating {s t : State} (hi : Inv s) (hq : s.seqState = .validating)
    (h : execValidating s = .next t) : t.plan = s.plan := by
  cases hw : s.firstWrongField with
  | none =>
    cases (execValidating_of_right hw).symm.trans h
    exact State.plan_of_silent rfl rfl (by simp only [State.toCome, hq, State.goTo]; rfl)
  | some e =>
    obtain ⟨-, -, he⟩ := hi.quiet (by rw [hq]; rfl)
    cases (execValidating_of_wrong he hw).symm.trans h
    exact plan_specRejected hq hw

theorem plan_execAcquire {s t : State} (hi : Inv s) (hq : s.seqState = .acquire)
    (h : execAcquire s = .next t) : t.plan = s.plan := by
  have hw := hi.lengths (by rw [hq]; rfl)
  have hcmd := hi.cmdValue (by rw [hq]; rfl)
  rw [← s.latchedRequest_firstWrongField] at hw
  cases h
  refine State.plan_of_emits [configureWord] rfl rfl ?_
  simp only [State.toCome, hq, session_eq_of_right s.cfg hw]
  cases hp : s.profile.preSil <;>
    simp [andThen, State.goTo, State.frames, hp, hcmd, State.latchedRequest, Request.command,
      State.concatenation]

/-- The repetition decision: the next repetition, or the end (R147). -/
theorem plan_execSilence {s t : State} (hi : Inv s) (hq : s.seqState = .silence)
    (h : execSilence s = .next t) : t.plan = s.plan := by
  have he := hi.noError (by rw [hq]; rfl)
  cases h
  refine State.plan_of_pulse .low s.profile.tSil rfl rfl ?_
  simp only [State.toCome, hq, State.goTo, State.laterFrames, State.frames]
  by_cases hr : s.rep + 1 < s.cfg.nRepeat
  · simp [hr, Nat.sub_add_eq]
  · have hlast : s.cfg.nRepeat - s.rep - 1 = 0 := by omega
    simp [hr, hlast, repetitionOps, State.status, he]

theorem plan_bitHighOn {s : State} (hi : Inv s) (hq : s.seqState = .bitHigh) {c : Symbol}
    (hc : s.currentSymbol = some c) : (bitHighOn c s).plan = s.plan := by
  cases hh : s.half with
  | true =>
    rw [bitHighOn_of_ok (.inl hh)]
    refine State.plan_of_pulse .high s.profile.tHigh rfl rfl ?_
    simp only [State.toCome, hq, State.goTo, State.pulse_half, hh, if_true]
    rfl
  | false =>
    cases hv : validSymbol c with
    | true =>
      rw [bitHighOn_of_ok (.inr hv)]
      refine State.plan_of_pulse .high s.profile.tHigh rfl rfl ?_
      simp only [State.toCome, hq, State.goTo, State.pulse_half, hh, Bool.false_eq_true, if_false,
        State.fromSymbol_of_valid hc hv]
      rfl
    | false =>
      have hb := hi.bitLoop (.inl hq)
      rw [bitHighOn_of_invalid hh hv, State.raise_defect (hi.noError (by rw [hq]; rfl))]
      refine State.plan_of_silent rfl rfl ?_
      simp [State.toCome, hq, hh, State.fromSymbol_of_invalid hc hv, State.status,
        Nat.mod_eq_of_lt hb]

theorem plan_bitLowOn {s : State} (hi : Inv s) (hq : s.seqState = .bitLow) {c : Symbol}
    (hc : s.currentSymbol = some c) : (bitLowOn c s).plan = s.plan := by
  have hv : validSymbol c = true := by
    obtain ⟨b, hb, hv⟩ := hi.checked (.inl hq)
    cases hb.symm.trans hc
    exact hv
  cases hh : s.half with
  | false =>
    rw [bitLowOn_of_first hv hh]
    refine State.plan_of_pulse .low (s.profile.lowdur (isOne c)) rfl rfl ?_
    simp only [State.toCome, hq, hh, State.bitNow_eq hc, Bool.false_eq_true, if_false]
    rfl
  | true =>
    rw [bitLowOn_of_second hv hh]
    refine State.plan_of_pulse .low (s.profile.lowdur (!isOne c)) rfl rfl ?_
    simp only [State.toCome, hq, hh, State.bitNow_eq hc, if_true]
    by_cases hl : s.bit + 1 = 32
    · rw [State.fromSymbol_of_length (hi.cmdLength.trans hl.symm)]
      simp only [hl, if_true]
      rfl
    · simp only [hl, if_false]
      rfl

/-- Every move of the sequencer keeps the plan. -/
theorem plan_of_exec {s t : State} (hi : Inv s) (hr : ∀ r rest, s.inputs ≠ .request r :: rest)
    (h : exec s.seqState.instr s = .next t) : t.plan = s.plan := by
  cases hq : s.seqState <;> simp only [hq, SeqState.instr] at h
  case idle => rw [exec_idle_waits hr] at h; cases h; rfl
  case validating => exact plan_execValidating hi hq h
  case acquire => exact plan_execAcquire hi hq h
  case silence => exact plan_execSilence hi hq h
  case bitHigh =>
    obtain ⟨c, hc⟩ := hi.currentSymbol (.inl hq)
    cases (execBitHigh_of_symbol hc).symm.trans h
    exact plan_bitHighOn hi hq hc
  case bitLow =>
    obtain ⟨c, hc⟩ := hi.currentSymbol (.inr hq)
    cases (execBitLow_of_symbol hc).symm.trans h
    exact plan_bitLowOn hi hq hc
  all_goals cases h
  case rejected => rfl
  case done => rfl
  case encoding => exact State.plan_of_silent rfl rfl (by simp only [State.toCome, hq]; rfl)
  case preSilence =>
    exact State.plan_of_pulse .low s.profile.tSil rfl rfl (by simp only [State.toCome, hq]; rfl)
  case agc1 =>
    refine State.plan_of_pulse .high s.profile.tAgc1 rfl rfl ?_
    simp only [State.toCome, hq, State.frames_eq (hi.repLoop (by rw [hq]; rfl))]
    rfl
  case agc2 =>
    exact State.plan_of_pulse .low s.profile.tAgc2 rfl rfl (by simp only [State.toCome, hq]; rfl)
  case close =>
    exact State.plan_of_pulse .high s.profile.tHigh rfl rfl (by simp only [State.toCome, hq]; rfl)
  case abort =>
    exact State.plan_of_emits [setLevelWord .low] rfl rfl (by simp only [State.toCome, hq]; rfl)
  case cleanupLow =>
    exact State.plan_of_emits [setLevelWord .low] rfl rfl (by simp only [State.toCome, hq]; rfl)
  case cleanupRelease =>
    exact State.plan_of_emits [releaseWord] rfl rfl (by simp only [State.toCome, hq]; rfl)

/-! ### The run of one request -/

/-- A session under way whose answers are all `ok`, with answers enough for the whole of the
plan `p`. -/
structure OnPlan (p : List SinkWord × Status) (s : State) : Prop where
  inv : Inv s
  noInput : s.inputs = []
  reliable : SinkReliable s
  traceOk : ∀ e ∈ s.trace, e.2 = Answer.ok
  plan : s.plan = p
  enough : p.1.length ≤ s.trace.length + s.answers.length

theorem OnPlan.step {p : List SinkWord × Status} {s t : State} (h : OnPlan p s)
    (hs : step s = .next t) : OnPlan p t := by
  have hr (r : Request) (rest : List EnvMove) : s.inputs ≠ .request r :: rest := by
    simp [h.noInput]
  have hi := inv_of_step h.inv hs
  have hin := no_input_of_step h.noInput hs
  rw [step_of_no_input h.noInput] at hs
  rcases blockMove_cases hs with ⟨w, q, -, -, rfl⟩ | ⟨w, q, a, rest, d, l, n, ho, -, ha, rfl⟩ |
      ⟨-, he⟩
  · exact h
  · obtain rfl : a = .ok := h.reliable a (by simp [ha])
    have hplan : (s.answered w q .ok rest d l n).plan = s.plan :=
      congrArg (andThen · s.toCome) (issued_completed ho .ok)
    refine ⟨hi, hin, fun b hb => h.reliable b (by rw [ha]; exact List.mem_cons_of_mem _ hb),
      fun e he => ?_, hplan.trans h.plan, ?_⟩
    · rcases List.mem_append.mp he with he | he
      · exact h.traceOk e he
      · rw [List.mem_singleton.mp he]
    · have hn := h.enough
      simp only [State.answered, ha, List.length_append, List.length_cons, List.length_nil] at hn ⊢
      omega
  · have hf := internalFrame_of_exec hr he
    refine ⟨hi, hin, ?_, ?_, (plan_of_exec h.inv hr he).trans h.plan, ?_⟩
    · rw [SinkReliable, hf.answers]; exact h.reliable
    · rw [hf.trace]; exact h.traceOk
    · rw [hf.trace, hf.answers]; exact h.enough

theorem OnPlan.run {p : List SinkWord × Status} {s t : State} (h : OnPlan p s) {k : Nat}
    (hr : Sys2Proof.core.run k s = .next t) : OnPlan p t :=
  run_induction (fun _ _ => OnPlan.step) k s t h hr

/-- An operation in `OUTQ` is part of the plan and not yet in the trace, so an answer is left for
it. -/
theorem OnPlan.sinkAnswers {p : List SinkWord × Status} {s : State} (h : OnPlan p s) :
    SinkAnswers s := by
  intro k t hr ho ha
  have ht := h.run hr
  have hn := ht.enough
  rw [← ht.plan] at hn
  simp only [State.plan, State.issued, andThen_fst, List.length_append, List.length_map, ha,
    List.length_nil] at hn
  exact ho (List.eq_nil_of_length_eq_zero (by omega))

/-- At the end of a run the plan is the trace and the status. -/
theorem OnPlan.ended {p : List SinkWord × Status} {s : State} (h : OnPlan p s)
    (hd : s.doneFlag = true) :
    s.trace = p.1.map (fun w => (w, Answer.ok)) ∧ s.status = p.2 := by
  obtain ⟨hq, ho⟩ := s.doneFlag_iff.mp hd
  have hrest : s.toCome = ([], s.status) := by
    rcases hq with hq | hq <;> simp only [State.toCome, hq]
  rw [← h.plan, State.plan, hrest, State.issued_of_empty ho]
  refine ⟨?_, rfl⟩
  simp only [andThen_fst, List.append_nil, List.map_map]
  have hok : s.trace.map ((fun w => (w, Answer.ok)) ∘ Prod.fst) = s.trace.map id :=
    List.map_congr_left fun e he => Prod.ext rfl (h.traceOk e he).symm
  rw [hok, List.map_id]

/-- The request transaction puts the session on the plan that the session function gives (R170,
R181). -/
theorem onPlan_latch {s : State} {r : Request} (hr : ResetDone s) (hc : ConfigFixed s)
    (hin : s.inputs = [.request r]) (hrel : SinkReliable s)
    (hn : (session s.cfg r).1.length ≤ s.answers.length) :
    OnPlan (session s.cfg r) (State.latch { s with inputs := [] } r) := by
  have hi := inv_of_step (hr.inv hc) (step_latches hr.1 hin)
  obtain ⟨-, -, -, ho, ht, -⟩ := hr
  refine ⟨hi, rfl, hrel, ?_, ?_, hn.trans (Nat.le_add_left _ _)⟩
  · simp [State.latch, State.goTo, ht]
  · simp [State.plan, State.issued, State.toCome, State.latch, State.goTo, ht, ho,
      State.latchedRequest]

/-- Settles O49: every move keeps the plan, the run ends because its operations are all answered,
and at its end the plan is what has been done. -/
theorem runIsTheSessionFunction : Obligations.RunIsTheSessionFunction := by
  unfold Obligations.RunIsTheSessionFunction
  intro s r hr hc hin hrel hn
  have hs := step_latches hr.1 hin
  have hp := onPlan_latch hr hc hin hrel hn
  obtain ⟨k, t, -, ht, hd⟩ := run_ends hp.inv rfl nofun hp.sinkAnswers
  obtain ⟨htrace, hstatus⟩ := (hp.run ht).ended hd
  exact ⟨k + 1, t, by rw [run_succ_of_next hs, ht], hd, htrace, hstatus⟩

end Sys2Proof.Machine

namespace Sys2Proof.Machine

/-! ### The operations of the PulseSink (R201 to R206) -/

/-- `CONFIGURE` answered `ok` makes the pin an output (R201). -/
theorem performConfigure_ok_dir (s : State) : (performConfigure .ok s).dir = .output := rfl

/-- `SET_LEVEL` leaves the direction of the pin alone (R202). -/
@[simp] theorem performSetLevel_dir (l : Level) (a : Answer) (s : State) :
    (performSetLevel l a s).dir = s.dir := by
  unfold performSetLevel
  split <;> rfl

/-- `SET_LEVEL` answered `ok` drives an output (R202). -/
theorem performSetLevel_ok_line {s : State} (h : s.dir = .output) (l : Level) :
    (performSetLevel l .ok s).line = l.toLine := by
  rw [performSetLevel, if_pos ⟨rfl, h⟩]

@[simp] theorem performRelease_dir (a : Answer) (s : State) :
    (performRelease a s).dir = .released := by
  unfold performRelease
  split <;> rfl

/-- `RELEASE` leaves the line of an output undriven (R204). -/
theorem performRelease_line {s : State} (h : s.dir = .output) (a : Answer) :
    (performRelease a s).line = .undriven := by
  rw [performRelease, if_pos h]

@[simp] theorem specAnswered_trace (s : State) (w : SinkWord) (a : Answer) (rest : List Answer)
    (d : Dir) (l : Line) (n : Nat) :
    (specAnswered s w a rest d l n).trace = s.trace ++ [(w, a)] := by
  cases a <;> rfl

@[simp] theorem specAnswered_dir (s : State) (w : SinkWord) (a : Answer) (rest : List Answer)
    (d : Dir) (l : Line) (n : Nat) : (specAnswered s w a rest d l n).dir = d := by
  cases a <;> rfl

@[simp] theorem specAnswered_line (s : State) (w : SinkWord) (a : Answer) (rest : List Answer)
    (d : Dir) (l : Line) (n : Nat) : (specAnswered s w a rest d l n).line = l := by
  cases a <;> rfl

/-- An answered sink step: the operation acts on the pin alone, and the rest is what R206, R223 and
R227 say. -/
theorem sinkStep_of_answer {perform : Answer → State → State} (hp : PinOnly perform) (w : SinkWord)
    {s : State} {a : Answer} {rest : List Answer} (ha : s.answers = a :: rest) :
    sinkStep w perform s =
      .next (specAnswered s w a rest (perform a { s with answers := rest }).dir
        (perform a { s with answers := rest }).line
        (perform a { s with answers := rest }).draws) := by
  obtain ⟨d, l, n, hd⟩ := hp a { s with answers := rest }
  cases a <;> simp only [sinkStep, ha, hd, State.raise_sinkFailure] <;> rfl

/-- Settles O27: the answered sink step of `CONFIGURE`. -/
theorem configureOperation : Obligations.ConfigureOperation := by
  unfold Obligations.ConfigureOperation
  intro s a rest ha
  refine ⟨_, _, _, configureWord_eq ▸ sinkStep_of_answer performConfigure_pinOnly configureWord ha, ?_⟩
  rintro rfl
  exact performConfigure_ok_dir _

/-- An answered `SET_LEVEL` leaves the direction alone, and after `ok` an output shows the level. -/
theorem exec_setLevel_of_answer (lv : Level) {s : State} {a : Answer} {rest : List Answer}
    (ha : s.answers = a :: rest) :
    ∃ l n, exec (.setLevel lv) s = .next (specAnswered s (setLevelWord lv) a rest s.dir l n) ∧
      (a = .ok → s.dir = .output → l = lv.toLine) := by
  have hstep := sinkStep_of_answer (performSetLevel_pinOnly lv) (setLevelWord lv) ha
  rw [performSetLevel_dir] at hstep
  refine ⟨_, _, hstep, ?_⟩
  rintro rfl hout
  exact performSetLevel_ok_line (s := { s with answers := rest }) hout lv

/-- Settles O28: the answered sink step of `SET_LEVEL`, for the word of each level. -/
theorem setLevelOperation : Obligations.SetLevelOperation := by
  unfold Obligations.SetLevelOperation
  intro s lv a rest ha
  cases lv with
  | low => exact setLevelWord_low ▸ exec_setLevel_of_answer .low ha
  | high => exact setLevelWord_high ▸ exec_setLevel_of_answer .high ha

/-- Settles O29: the effect of `HOLD_FOR` on the pin is none. -/
theorem holdForOperation : Obligations.HoldForOperation := by
  unfold Obligations.HoldForOperation
  intro s d a rest ha
  exact holdForWord_eq d ▸ sinkStep_of_answer (performHoldFor_pinOnly d) (holdForWord d) ha

/-- Settles O30: the answered sink step of `RELEASE`. -/
theorem releaseOperation : Obligations.ReleaseOperation := by
  unfold Obligations.ReleaseOperation
  intro s a rest ha
  have hstep := sinkStep_of_answer performRelease_pinOnly releaseWord ha
  rw [performRelease_dir] at hstep
  exact ⟨_, _, releaseWord_eq ▸ hstep,
    fun hout => performRelease_line (s := { s with answers := rest }) hout a⟩

/-! ### The pin across a reset (R251) -/

/-- The meaning of a sink word and its effect at a reset are one effect on the pin (R206, R251). -/
theorem exec_eq_performInFlight {w : SinkWord} {i : Instr} (hd : decodeSink36 w = .ok i) (s : State) :
    exec i s = sinkStep w (performInFlight w) s := by
  obtain ⟨rfl, rfl⟩ | ⟨l, rfl, rfl⟩ | ⟨d, rfl, rfl⟩ | ⟨rfl, rfl⟩ := decodeSink36_cases hd <;>
    refine congrArg (sinkStep _ · s) (funext₂ fun a u => ?_) <;>
    simp only [performInFlight, hd]

/-- A reset at the port is taken whatever the state (R250). -/
theorem step_of_reset {s : State} {f : Option Answer} {rest : List EnvMove}
    (h : s.inputs = .reset f :: rest) :
    step s = .next (State.applyReset { s with inputs := rest } f) := by
  simp only [step, nextMove, h]

@[simp] theorem State.applyReset_dir (s : State) (f : Option Answer) :
    (s.applyReset f).dir = (s.settleInFlight f).dir := rfl

@[simp] theorem State.applyReset_line (s : State) (f : Option Answer) :
    (s.applyReset f).line = (s.settleInFlight f).line := rfl

/-- With nothing in flight, or an operation the PulseSink gives up, a reset has no effect on the pin. -/
theorem State.settleInFlight_of_none {s : State} {f : Option Answer} (h : f = none ∨ s.outq = []) :
    s.settleInFlight f = s := by
  unfold State.settleInFlight
  split
  · rename_i ho
    simp [ho] at h
  · rfl

/-- A `SET_LEVEL` in flight that the PulseSink completes. -/
theorem State.settleInFlight_setLevel {s : State} {l : Level} {q : List SinkWord}
    (ho : s.outq = setLevelWord l :: q) (a : Answer) :
    s.settleInFlight (some a) = performSetLevel l a s := by
  simp only [State.settleInFlight, ho, performInFlight, decodeSink36_setLevel]

/-- A reset while the PulseSink completes a `SET_LEVEL` on an output leaves the output at its level. -/
theorem State.applyReset_setLevel {s : State} {l : Level} {q : List SinkWord}
    (ho : s.outq = setLevelWord l :: q) (hd : s.dir = .output) :
    (s.applyReset (some .ok)).dir = .output ∧ (s.applyReset (some .ok)).line = l.toLine := by
  rw [State.applyReset_dir, State.applyReset_line, State.settleInFlight_setLevel ho,
    performSetLevel_dir, performSetLevel_ok_line hd]
  exact ⟨hd, rfl⟩

/-- Settles O36: a reset settles the operation in flight, and does no more to the pin. -/
theorem resetLeavesThePin : Obligations.ResetLeavesThePin := by
  unfold Obligations.ResetLeavesThePin
  intro s t f rest hi h
  obtain rfl := Host.Outcome.next.inj ((step_of_reset hi).symm.trans h)
  refine ⟨fun hnone => ?_, ?_, ?_⟩
  · rw [State.applyReset_dir, State.applyReset_line,
      State.settleInFlight_of_none (s := { s with inputs := rest }) hnone]
    exact ⟨rfl, rfl⟩
  · rintro q rfl ho hout
    exact State.applyReset_setLevel (l := .low) (setLevelWord_low ▸ ho) hout
  · rintro q rfl ho hout
    exact State.applyReset_setLevel (l := .high) (setLevelWord_high ▸ ho) hout

end Sys2Proof.Machine

namespace Sys2Proof

/-- The states in which the block does not own the pin (R33). -/
theorem SeqState.beforePin_or_terminal {q : SeqState} (h : q.holdsPin = false) :
    q.beforePin = true ∨ q = .rejected ∨ q = .done := by
  cases q <;> simp_all [SeqState.holdsPin, SeqState.beforePin]

end Sys2Proof

namespace Sys2Proof.Machine

/-! ### The observable level (R207) -/

/-- A level is specified after an operation answered `ok` that sets it, or that holds the level there
was before. -/
theorem driveLevel_some_cases {before : Option Level} {w : SinkWord} {a : Answer} {l : Level}
    (h : driveLevel before (w, a) = some l) :
    a = .ok ∧ (decodeSink36 w = .ok (.setLevel l) ∨
      before = some l ∧ ∃ d, decodeSink36 w = .ok (.holdFor d)) := by
  cases a with
  | fail => cases h
  | ok =>
    refine ⟨rfl, ?_⟩
    simp only [driveLevel] at h
    split at h
    · rename_i hd
      cases h
      exact .inl hd
    · rename_i d hd
      exact .inr ⟨h, d, hd⟩
    · cases h

/-- After a `RELEASE`, whatever its answer, no level is specified. -/
theorem foldl_driveLevel_of_release {tr : List (SinkWord × Answer)} {before : List SinkWord}
    (h : tr.map Prod.fst = before ++ [0xC00000000#36]) (x : Option Level) :
    tr.foldl driveLevel x = none := by
  obtain ⟨pre, tl, rfl, -, htl⟩ := List.map_eq_append_iff.mp h
  obtain ⟨⟨w, a⟩, tl', rfl, rfl, hnil⟩ := List.map_eq_cons_iff.mp htl
  obtain rfl := List.map_eq_nil_iff.mp hnil
  rw [List.foldl_append]
  cases a <;> simp [driveLevel]

theorem State.observableLevel_eq_some {s : State} {l : Level} :
    s.observableLevel = some l ↔ s.dir = .output ∧ s.trace.foldl driveLevel none = some l := by
  simp [State.observableLevel]

/-- Where R207 specifies the level on the line, the line shows it. -/
def State.ShowsLevel (s : State) : Prop := ∀ l, s.observableLevel = some l → s.line = l.toLine

theorem State.showsLevel_of_no_level {s : State} (h : s.trace.foldl driveLevel none = none) :
    s.ShowsLevel := fun l hl => by simp [State.observableLevel, h] at hl

/-- The claim reads the trace and the pin alone. -/
theorem State.ShowsLevel.congr {s t : State} (hs : s.ShowsLevel) (ht : t.trace = s.trace)
    (hd : t.dir = s.dir) (hl : t.line = s.line) : t.ShowsLevel := by
  intro l h
  rw [hl]
  exact hs l (by rwa [State.observableLevel, ← ht, ← hd])

/-- An operation keeps the claim: it specifies a level when it sets it on an output, or when it holds
the line as it was. -/
theorem State.ShowsLevel.answered {s : State} (hs : s.ShowsLevel) (w : SinkWord) (a : Answer)
    (rest : List Answer) :
    (specAnswered s w a rest (performInFlight w a { s with answers := rest }).dir
      (performInFlight w a { s with answers := rest }).line
      (performInFlight w a { s with answers := rest }).draws).ShowsLevel := by
  intro l hl
  obtain ⟨hdir, hlev⟩ := State.observableLevel_eq_some.mp hl
  simp only [specAnswered_dir, specAnswered_trace, specAnswered_line, List.foldl_append,
    List.foldl_cons, List.foldl_nil] at hdir hlev ⊢
  obtain ⟨rfl, hset | ⟨hbefore, d, hhold⟩⟩ := driveLevel_some_cases hlev
  · simp only [performInFlight, hset, performSetLevel_dir] at hdir ⊢
    exact performSetLevel_ok_line (s := { s with answers := rest }) hdir l
  · simp only [performInFlight, hhold, performHoldFor] at hdir ⊢
    exact hs l (State.observableLevel_eq_some.mpr ⟨hdir, hbefore⟩)

theorem State.ShowsLevel.blockMove {s t : State} (hs : s.ShowsLevel)
    (hr : ∀ r rest, s.inputs ≠ .request r :: rest) (h : blockMove s = .next t) : t.ShowsLevel := by
  cases ho : s.outq with
  | nil =>
    rw [blockMove_of_empty ho] at h
    have hf := internalFrame_of_exec hr h
    exact hs.congr hf.trace hf.dir hf.line
  | cons w q =>
    cases hd : decodeSink36 w with
    | error e =>
      rw [blockMove_of_illegal ho hd] at h
      cases h
    | ok i =>
      cases ha : s.answers with
      | nil =>
        rw [blockMove_of_no_answer ho hd ha] at h
        cases h
        exact hs
      | cons a rest =>
        rw [blockMove_of_legal ho hd, exec_eq_performInFlight hd,
          sinkStep_of_answer (performInFlight_pinOnly w) w ha] at h
        cases h
        exact hs.answered w a rest

/-- Every step but another agent's touch of the pin keeps the claim. -/
theorem State.ShowsLevel.step {s t : State} (hs : s.ShowsLevel) (htouch : touchNext s = false)
    (h : step s = .next t) : t.ShowsLevel := by
  rcases step_cases h with ⟨f, rest, -, rfl⟩ | ⟨r, rest, -, -, rfl⟩ | ⟨m, rest, -, rfl, -⟩ |
      ⟨d, l, rest, hi, rfl⟩ | ⟨u, rest, hw, hb, rfl⟩
  · exact State.showsLevel_of_no_level rfl
  · exact hs.congr rfl rfl rfl
  · exact hs.congr rfl rfl rfl
  · simp [touchNext, hi] at htouch
  · exact (hs.blockMove (no_request_of_waits hw) hb).congr rfl rfl rfl

/-! ### Touches of the pin under `Exclusive` (R208) -/

/-- Another agent's touch sets the pin and nothing else (log entry 16). -/
theorem step_of_touch {s : State} {d : Dir} {l : Line} {rest : List EnvMove}
    (h : s.inputs = .touchPin d l :: rest) :
    step s = .next { s with inputs := rest, dir := d, line := l } := by
  simp only [step, nextMove, h]

theorem exists_touch_of_touchNext {s : State} (h : touchNext s = true) :
    ∃ d l rest, s.inputs = .touchPin d l :: rest := by
  unfold touchNext at h
  split at h
  · exact ⟨_, _, _, ‹_›⟩
  · cases h

/-- While the block does not use the pin no level is specified: nothing has been performed, or the last
operation was the `RELEASE`. -/
theorem Inv.no_level_of_not_usesPin {s : State} (hi : Inv s) (h : s.usesPin = false) :
    s.trace.foldl driveLevel none = none := by
  obtain ⟨hown, ho⟩ : s.owned = false ∧ s.outq = [] := by simpa [State.usesPin] using h
  rcases SeqState.beforePin_or_terminal (hi.owned ▸ hown) with hq | hq | hq
  · obtain ⟨-, ht, -⟩ := hi.quiet hq
    rw [ht, List.foldl_nil]
  · have hissued := hi.rejectedIssued hq
    rw [State.issued_of_empty ho] at hissued
    rcases hissued with ht | ht
    · rw [List.map_eq_nil_iff.mp ht, List.foldl_nil]
    · exact foldl_driveLevel_of_release (before := []) ht none
  · obtain ⟨-, before, ht⟩ := hi.releaseIssued hq
    rw [State.issued_of_empty ho] at ht
    exact foldl_driveLevel_of_release (before := before ++ [0x400000000#36]) (by simpa using ht) none

/-- A session whose pin the block has to itself. -/
structure HasPinAlone (s : State) : Prop where
  inv : Inv s
  exclusive : Exclusive s
  shows : s.ShowsLevel

/-- A touch comes only while no level is specified, and every other step keeps the claim. -/
theorem HasPinAlone.step {s t : State} (h : HasPinAlone s) (hs : step s = .next t) :
    HasPinAlone t := by
  refine ⟨inv_of_step h.inv hs, h.exclusive.step hs, ?_⟩
  cases htouch : touchNext s with
  | false => exact h.shows.step htouch hs
  | true =>
    have huse : s.usesPin = false :=
      Bool.eq_false_iff.mpr fun hu => by simp [h.exclusive 0 s rfl hu] at htouch
    obtain ⟨d, l, rest, hi⟩ := exists_touch_of_touchNext htouch
    obtain rfl := Host.Outcome.next.inj ((step_of_touch hi).symm.trans hs)
    exact State.showsLevel_of_no_level (h.inv.no_level_of_not_usesPin huse :)

/-- After a reset nothing has been performed, so no level is specified. -/
theorem ResetDone.hasPinAlone {s : State} (h : ResetDone s) (hc : ConfigFixed s)
    (he : Exclusive s) : HasPinAlone s := by
  refine ⟨h.inv hc, he, State.showsLevel_of_no_level ?_⟩
  obtain ⟨-, -, -, -, ht, -⟩ := h
  rw [ht, List.foldl_nil]

/-- Settles O46: the step lemma, the induction along a run with the pin to itself, and the touch. -/
theorem observableLevelIsOnTheLine : Obligations.ObservableLevelIsOnTheLine := by
  unfold Obligations.ObservableLevelIsOnTheLine
  refine ⟨fun s t hs htouch h => State.ShowsLevel.step hs htouch h, fun k s t hr hc he h => ?_,
    fun s d l rest hi => step_of_touch hi⟩
  exact (run_induction (fun _ _ => HasPinAlone.step) k s t (hr.hasPinAlone hc he) h).shows

end Sys2Proof.Machine

namespace Sys2Proof.Machine

/-! ### A failed sink operation (R223, R227) -/

/-- The PulseSink completes the head of `OUTQ` with its next answer (R206). -/
theorem blockMove_of_answer {s : State} {w : SinkWord} {q : List SinkWord} {i : Instr} {a : Answer}
    {rest : List Answer} (ho : s.outq = w :: q) (hd : decodeSink36 w = .ok i)
    (ha : s.answers = a :: rest) :
    ∃ d l n, blockMove s = .next (specAnswered s w a rest d l n) := by
  obtain ⟨perform, hp, he⟩ := exec_sink hd
  exact ⟨_, _, _, by rw [blockMove_of_legal ho hd, he, sinkStep_of_answer hp w ha]⟩

/-- Settles O31: the move is the answered sink step, and the two tests of R223 and R227 decide what it
writes to the status and to the position. -/
theorem sinkFailureRedirects : Obligations.SinkFailureRedirects := by
  unfold Obligations.SinkFailureRedirects
  intro s w q i rest hi ho hd ha
  obtain ⟨d, l, n, hb⟩ := blockMove_of_answer ho hd ha
  refine ⟨_, (step_of_no_input hi).trans hb, rfl, rfl, fun he => ⟨if_pos he, if_pos he⟩,
    fun he => ⟨if_neg he, if_neg he⟩, rfl, rfl, rfl, rfl, fun hq => if_pos hq, fun hq => if_neg hq,
    rfl, rfl, rfl, rfl, rfl, rfl, rfl, rfl, rfl, rfl⟩

/-! ### First error wins (R224) -/

/-- `ERR` and its five detail registers (R31). -/
def State.errorRegisters (s : State) : ErrCode × Field × Nat × BitVec 5 × Symbol × SinkWord :=
  (s.err, s.errField, s.errLen, s.errPos, s.errSym, s.errOp)

/-- A later error event only diverts the sequencer. -/
theorem State.raise_errorRegisters {s : State} (he : s.err ≠ .none) (e : ErrEvent) :
    (s.raise e).errorRegisters = s.errorRegisters := by
  rw [State.raise, State.record_of_err he]
  cases e <;> rfl

theorem State.answered_errorRegisters {s : State} (he : s.err ≠ .none) (w : SinkWord)
    (q : List SinkWord) (a : Answer) (rest : List Answer) (d : Dir) (l : Line) (n : Nat) :
    (s.answered w q a rest d l n).errorRegisters = s.errorRegisters := by
  cases a with
  | ok => rfl
  | fail => exact State.raise_errorRegisters (by exact he) _

theorem State.releaseIfConfigured_errorRegisters (s : State) :
    s.releaseIfConfigured.errorRegisters = s.errorRegisters := by
  unfold State.releaseIfConfigured
  split <;> rfl

theorem execValidating_errorRegisters {s t : State} (he : s.err ≠ .none)
    (h : execValidating s = .next t) : t.errorRegisters = s.errorRegisters := by
  unfold execValidating at h
  split at h <;> cases h
  · rw [State.releaseIfConfigured_errorRegisters, State.raise_errorRegisters he]
  · rfl

theorem bitHighOn_errorRegisters {s : State} (he : s.err ≠ .none) (c : Symbol) :
    (bitHighOn c s).errorRegisters = s.errorRegisters := by
  unfold bitHighOn
  split
  · exact State.raise_errorRegisters he _
  · rfl

theorem bitLowOn_errorRegisters (c : Symbol) (s : State) :
    (bitLowOn c s).errorRegisters = s.errorRegisters := by
  unfold bitLowOn advanceBit lowHoldOf
  split <;> split <;> rfl

/-- Of the sequencer's steps only `VALIDATING` and `BIT_HIGH` raise an error event (R120, R143). -/
theorem exec_errorRegisters {s t : State} (hr : ∀ r rest, s.inputs ≠ .request r :: rest)
    (he : s.err ≠ .none) (h : exec s.seqState.instr s = .next t) :
    t.errorRegisters = s.errorRegisters := by
  cases hs : s.seqState <;> simp only [hs, SeqState.instr] at h
  case idle => rw [exec_idle_waits hr] at h; cases h; rfl
  case validating => exact execValidating_errorRegisters he h
  case bitHigh =>
    simp only [exec, execBitHigh] at h
    split at h <;> cases h
    exact bitHighOn_errorRegisters he _
  case bitLow =>
    simp only [exec, execBitLow] at h
    split at h <;> cases h
    exact bitLowOn_errorRegisters _ s
  all_goals cases h; rfl

theorem blockMove_errorRegisters {s t : State} (hr : ∀ r rest, s.inputs ≠ .request r :: rest)
    (he : s.err ≠ .none) (h : blockMove s = .next t) : t.errorRegisters = s.errorRegisters := by
  rcases blockMove_cases h with ⟨w, q, -, -, rfl⟩ | ⟨w, q, a, rest, d, l, n, -, -, -, rfl⟩ | ⟨-, hx⟩
  · rfl
  · exact State.answered_errorRegisters he w q a rest d l n
  · exact exec_errorRegisters hr he hx

/-- Once `ERR` is set, only a reset and the request transaction write the error registers. -/
theorem step_errorRegisters {s t : State} (he : s.err ≠ .none) (hreset : resetNext s = false)
    (hreq : requestNext s = false) (h : step s = .next t) : t.errorRegisters = s.errorRegisters := by
  rcases step_cases h with ⟨f, rest, hi, -⟩ | ⟨r, rest, hi, hq, -⟩ | ⟨m, rest, -, rfl, -⟩ |
      ⟨d, l, rest, -, rfl⟩ | ⟨u, rest, hw, hb, rfl⟩
  · simp [resetNext, hi] at hreset
  · simp [requestNext, hi, State.ready, hq] at hreq
  · rfl
  · rfl
  · exact (blockMove_errorRegisters (no_request_of_waits hw) he hb :)

/-- Settles O41: the six registers are kept as one tuple, whoever moves. -/
theorem firstErrorWins : Obligations.FirstErrorWins := by
  unfold Obligations.FirstErrorWins
  intro s t h he hreset hreq
  have hs := step_errorRegisters he hreset hreq h
  simpa only [State.errorRegisters, Prod.mk.injEq] using hs

end Sys2Proof.Machine

namespace Sys2Proof.Machine

/-! ### Reset from any state (R250) -/

/-- Settles O35: a reset leaves the block at the values of R41; the steps out of a terminal state are
those of `requestOutsideIdle`. -/
theorem resetStep : Obligations.ResetStep := by
  unfold Obligations.ResetStep
  refine ⟨fun s f rest hi => ⟨_, step_of_reset hi, ?_⟩, fun s t hq h hne => ?_⟩
  · obtain ⟨d, l, n, hr⟩ := State.applyReset_eq { s with inputs := rest } f
    rw [hr]
    exact ⟨rfl, rfl, rfl, rfl, rfl, rfl, rfl, rfl, rfl, rfl, rfl⟩
  · obtain ⟨-, -, hterminal⟩ := requestOutsideIdle
    exact (hterminal s t hq h).resolve_right hne

end Sys2Proof.Machine

namespace Sys2Proof.Machine

/-! ### Nominal durations of a frame and of a session (R256, R258, R259) -/

theorem nominalSum_cons (w : SinkWord) (ops : List SinkWord) :
    nominalSum (w :: ops) = nominalOf w + nominalSum ops := by
  simp [nominalSum]

@[simp] theorem nominalSum_nil : nominalSum [] = 0 := rfl

@[simp] theorem nominalOf_configure : nominalOf 0x000000000#36 = 0 := by decide

@[simp] theorem nominalOf_low : nominalOf 0x400000000#36 = 0 := by decide

@[simp] theorem nominalOf_release : nominalOf 0xC00000000#36 = 0 := by decide

theorem nominalSum_preamble (p : TimingProfile) :
    nominalSum (preambleOps p) = p.tAgc1.toNat + p.tAgc2.toNat := by
  simp [preambleOps]

theorem nominalSum_trailer (p : TimingProfile) :
    nominalSum (trailerOps p) = p.tHigh.toNat + p.tSil.toNat := by
  simp [trailerOps]

/-- A frame of 32 bits has 64 HIGH-spaces in its bits and one in its trailer (R149, R258). -/
theorem nominalSum_frame (p : TimingProfile) {bits : List Bool} (h : bits.length = 32) :
    nominalSum (frameOps p bits) = frameNominal p := by
  simp only [frameOps, nominalSum_append, nominalSum_preamble, nominalSum_bits, nominalSum_trailer,
    h, bitNominal, frameNominal]
  omega

theorem nominalSum_replicate (n : Nat) (ops : List SinkWord) :
    nominalSum (List.replicate n ops).flatten = n * nominalSum ops := by
  simp [nominalSum, List.sum_flatten]

/-- The frames of valid symbols; the cleanup holds nothing. -/
theorem nominalSum_repetition_of_valid (p : TimingProfile) {cmd : SymString} (hl : cmd.length = 32)
    (h : ∀ c ∈ cmd, validSymbol c = true) (n : Nat) :
    nominalSum (repetitionOps p cmd n).1 = n * frameNominal p := by
  have hbits : (cmd.map isOne).length = 32 := by rw [List.length_map, hl]
  rw [repetitionOps_of_valid p h, nominalSum_append, nominalSum_replicate, nominalSum_frame p hbits]
  simp [nominalSum_cons]

/-- The preamble and the bits before the first invalid symbol, at `k`; the cleanup holds nothing. -/
theorem nominalSum_repetition_of_defect (p : TimingProfile) {cmd : SymString} {k : Nat} {c : Symbol}
    (hk : cmd[k]? = some c) (hc : validSymbol c = false)
    (h : ∀ j b, j < k → cmd[j]? = some b → validSymbol b = true) {n : Nat} (hn : 1 ≤ n) :
    nominalSum (repetitionOps p cmd n).1 = p.tAgc1.toNat + p.tAgc2.toNat + k * bitNominal p := by
  obtain ⟨m, rfl⟩ := Nat.exists_eq_succ_of_ne_zero (Nat.one_le_iff_ne_zero.mp hn)
  obtain ⟨hlt, -⟩ := List.getElem?_eq_some_iff.mp hk
  have hbits : ((cmd.take k).map isOne).length = k := by simp [hlt.le]
  rw [repetitionOps_of_defect p hk hc h, nominalSum_append, nominalSum_append, nominalSum_preamble,
    nominalSum_bits, hbits]
  simp [nominalSum_cons]

/-- An accepted session lasts as long as its repetitions and its pre-silence. -/
theorem nominalSum_session (cfg : Params) {r : Request} (hw : r.firstWrongField = none) :
    nominalSum (session cfg r).1 =
      (if r.profile.preSil = true then r.profile.tSil.toNat else 0) +
        nominalSum (repetitionOps r.profile r.command cfg.nRepeat).1 := by
  rw [session_eq_of_right cfg hw]
  cases r.profile.preSil <;> simp [nominalSum_cons, presilOps]

/-- A rejected session holds nothing, whether or not it emits `RELEASE`. -/
theorem nominalSum_session_of_wrong (cfg : Params) {r : Request} (hw : r.firstWrongField ≠ none) :
    nominalSum (session cfg r).1 = 0 := by
  obtain ⟨⟨f, n⟩, hw⟩ := Option.ne_none_iff_exists'.mp hw
  rw [session_eq_of_wrong cfg hw]
  cases cfg.releaseOnReject <;> simp [nominalSum_cons]

/-- Settles O54: the sums of a bit and of a frame, and the session as its pre-silence and its
repetitions. -/
theorem nominalDurations : Obligations.NominalDurations := by
  unfold Obligations.NominalDurations
  refine ⟨nominalSum_lbit, fun p _ => nominalSum_frame p, fun cfg r hn =>
    ⟨nominalSum_session_of_wrong cfg, fun hw hv => ?_, fun k c hw hk hc hv => ?_⟩⟩
  · rw [nominalSum_session cfg hw,
      nominalSum_repetition_of_valid r.profile (Request.command_length hw) hv, Nat.add_comm]
  · rw [nominalSum_session cfg hw, nominalSum_repetition_of_defect r.profile hk hc hv hn,
      bitNominal]
    omega

end Sys2Proof.Machine
